-- ==== Sys2Proof/Word.lean ====
section
/-! DEFINITION. The value types that cross the ports of the codec: R20 to R24 of spec/10_state.md, and the
environment's raw stimulus. The types only; every function over them stands in a file under Machine/ or in Decode.lean. -/

namespace Sys2Proof

/-- A byte of the information side, bus bit 7 most significant (R42). -/
abbrev Byte := BitVec 8

/-- R20: "fixed-length sequence of exactly 8 bits, index 0 = most significant"; held as its bus word (R42). -/
abbrev InfoVector := BitVec 8

/-- R21: exactly 13 bits, stored 0-indexed; held as its bus word, document index `i` at bus bit `12 - i` (R50). -/
abbrev CodeVector := BitVec 13

/-- The four input ports (R25 to R28). Driving one of them selects its unit's one operation (R53). -/
inductive Port where
  | encInfo
  | decCode
  | pgIn
  | synCode
deriving DecidableEq, Repr

/-- A raw stimulus of the environment (R103): a port and a boolean sequence in document-index order (R10, R55),
not yet checked to have the port's length. -/
structure Drive where
  port : Port
  bits : List Bool
deriving DecidableEq, Repr

/-- R55, R92: the one error of the vector constructor, a sequence of the wrong length. -/
structure LengthMismatch where
  expected : Nat
  given : Nat
deriving DecidableEq, Repr

/-- R23: "Outcome is one of three variants". -/
inductive DecodeOutcome where
  | ok (info : InfoVector)
  | errorFixed (info : InfoVector) (position : Fin 13)
  | multipleErrorsDetected
deriving DecidableEq, Repr

/-- R58: the four check bits; the subscript is the CodeVector position the bit belongs at. -/
structure CheckBits where
  k0 : Bool
  k1 : Bool
  k3 : Bool
  k7 : Bool
deriving DecidableEq, Repr

end Sys2Proof
end

