-- ==== Sys2Proof/Machine/Bits.lean ====
section
/-! DEFINITION. Bit access by document index, the vector constructor and the textual rendering: R9, R10, R55 and the
weights of R44 and R50. Everything else reads and writes single bits through these. -/

namespace Sys2Proof.Machine

/-- `V{i}` (R10): the bit at document index `i`, index 0 first, which is the most significant bus bit (R42, R50). -/
def bitAt {n : Nat} (V : BitVec n) (i : Nat) : Bool :=
  V.getMsbD i

/-- `V{i} <- b` (R10) on a working copy. An index outside the vector names no bit: the copy is unchanged. -/
def setBit {n : Nat} (V : BitVec n) (i : Nat) (b : Bool) : BitVec n :=
  if i < n then
    if b then V ||| BitVec.twoPow n (n - 1 - i) else V &&& ~~~(BitVec.twoPow n (n - 1 - i))
  else V

/-- `V{i} <- !V{i}` (R9, R76 step 7). -/
def flipBit {n : Nat} (V : BitVec n) (i : Nat) : BitVec n :=
  setBit V i (!bitAt V i)

/-- `XOR{ V{i} : i in ps }` (R9); 0 over no position. -/
def xorAt {n : Nat} (V : BitVec n) (ps : List Nat) : Bool :=
  ps.foldl (fun acc i => acc ^^ bitAt V i) false

/-- The bits of a vector in index order (R55). -/
def toBits {n : Nat} (V : BitVec n) : List Bool :=
  (List.range n).map (bitAt V)

/-- The unsigned value of a bit sequence, first bit most significant: the weighted sums of R44 and R50. -/
def bitsValue : List Bool → Nat
  | [] => 0
  | b :: bs => b.toNat * 2 ^ bs.length + bitsValue bs

/-- R55: a vector of length `n` "constructible from (a) a boolean sequence of exactly N elements — fails with a
length-mismatch error otherwise". -/
def vectorOfBits (n : Nat) (bs : List Bool) : Except LengthMismatch (BitVec n) :=
  if bs.length = n then .ok (BitVec.ofNat n (bitsValue bs)) else .error ⟨n, bs.length⟩

/-- R55: "a string of '0'/'1' characters in index order". -/
def render {n : Nat} (V : BitVec n) : String :=
  String.ofList ((toBits V).map fun b => if b then '1' else '0')

/-- The boolean a character of the textual form stands for (R55); any other character stands for none. -/
def bitOfChar (c : Char) : Option Bool :=
  if c = '1' then some true else if c = '0' then some false else none

/-- The width of each input port: R25 to R28. -/
def portWidth : Port → Nat
  | .encInfo => 8
  | .decCode => 13
  | .pgIn => 13
  | .synCode => 13

end Sys2Proof.Machine
end

