-- ==== Sys2Proof/Syntax.lean ====
section
/-! DEFINITION. The four operations (R53, R101): one constructor per row of spec/opcode_table.json. -/

namespace Sys2Proof

/-- An instruction of this hardware is a unit and the vector on its input port: there is no opcode (R41, R53). -/
inductive Instr where
  /-- ENCODE on `enc_info` (R64). -/
  | encode (info : InfoVector)
  /-- DECODE on `dec_code` (R76). -/
  | decode (code : CodeVector)
  /-- PARGEN on `pg_in` (R60). -/
  | pargen (placed : CodeVector)
  /-- SYNDROME on `syn_code` (R69). -/
  | syndrome (code : CodeVector)
deriving DecidableEq, Repr

end Sys2Proof
end

