-- ==== Sys2Proof/WellFormed.lean ====
section
/-! DEFINITION. The checks on raw data: a drive has its port's length (R35, R92), and a FLIP list holds pairwise-distinct
positions, each in range (R57, R103). An `Instr` needs no check: its operand's type has the port's width, and every pattern of
that width is legal (R54). -/

namespace Sys2Proof

/-- The drive carries exactly as many bits as its port has wires (R25 to R28, R92). -/
def Drive.wf (d : Drive) : Bool :=
  d.bits.length == Machine.portWidth d.port

/-- R57, R103: pairwise-distinct positions in `[0, n)`, the positions of a vector of length `n`. -/
def flipListWf (n : Nat) (ps : List Nat) : Bool :=
  ps.all (· < n) && decide ps.Nodup

end Sys2Proof
end

