-- ==== Sys2Proof/Decode.lean ====
section
/-! DEFINITION. From a raw drive to an operation and back (R53 to R55). The port selects the operation; the bits are its
operand. The only rejection is the length-mismatch of R92. -/

namespace Sys2Proof

open Machine (vectorOfBits toBits)

/-- Which operation a drive performs (R53), or the length-mismatch by name (R92). Total. -/
def decode (d : Drive) : Except LengthMismatch Instr :=
  match d.port with
  | .encInfo => (vectorOfBits 8 d.bits).map Instr.encode
  | .decCode => (vectorOfBits 13 d.bits).map Instr.decode
  | .pgIn => (vectorOfBits 13 d.bits).map Instr.pargen
  | .synCode => (vectorOfBits 13 d.bits).map Instr.syndrome

/-- The port stimulus that performs an operation (R41, R53): its port, and its operand's bits in index order. -/
def encode : Instr → Drive
  | .encode D => ⟨.encInfo, toBits D⟩
  | .decode C => ⟨.decCode, toBits C⟩
  | .pargen V => ⟨.pgIn, toBits V⟩
  | .syndrome R => ⟨.synCode, toBits R⟩

/-- The bits of a bus word of `width` wires, document index order (R11, R42, R50). -/
def busBits (width w : Nat) : List Bool :=
  toBits (BitVec.ofNat width w)

/-- A table word as the bits of a port of `width` wires. A word with a 1 above the port's top wire fits no such port:
all 16 of its bits are kept, and the decoder refuses their number (assumption 7). -/
def tableBits (width w : Nat) : List Bool :=
  if w < 2 ^ width then busBits width w else busBits 16 w

/-- The drive a word of spec/opcode_table.json stands for. A word of 8 bits is ENCODE's. The three rows of 13 bits (16
in whole bytes) have mask 0 and the same words, because no bit pattern selects an operation (R53): the table's first of
them, DECODE, is taken. DESIGN CHOICE, assumption 6. -/
def tableDrive (nbits w : Nat) : Drive :=
  if nbits = 8 then ⟨.encInfo, tableBits 8 w⟩
  else if nbits = 16 then ⟨.decCode, tableBits 13 w⟩
  else ⟨.decCode, busBits nbits w⟩

/-- What the decoder reads from a word numbered as spec/opcode_table.json numbers it (bit `n` is bus bit `n`). -/
def decodeTableWord (nbits w : Nat) : Option Instr :=
  (decode (tableDrive nbits w)).toOption

end Sys2Proof
end

