-- ==== Sys2Proof/Config.lean ====
section
/-! DEFINITION. What an implementation fixes and the spec leaves open: `DEC_DONT_CARE` of spec/92_eei_decisions.md D6.
The other open parameter, `T_PD` (D11, R110), has no value any rule reads and is left out (assumption 10). -/

namespace Sys2Proof

/-- `DEC_DONT_CARE` for `dec_info` when `dec_status` = 2 (R51, U1): "a function from the input to the unspecified bits,
under no law". No body: nothing can be proved of its value. -/
opaque Config.decDontCareInfo : CodeVector → BitVec 8

/-- `DEC_DONT_CARE` for `dec_pos` when `dec_status` is 0 or 2 (R51, U1). No body. -/
opaque Config.decDontCarePos : CodeVector → BitVec 4

end Sys2Proof
end

