-- ==== Sys2Proof/Machine/State.lean ====
section
/-! DEFINITION. The machine's state: what stands on the ports of the four units (R25 to R28) and the environment's
stimuli still to come (R103). The block itself holds nothing (R14): assumption 1. -/

namespace Sys2Proof.Machine

/-- The ports of ENC (R25). -/
structure EncPorts where
  /-- `enc_info`, input. -/
  info : InfoVector
  /-- `enc_code`, output. -/
  code : CodeVector
deriving DecidableEq, Repr

/-- The ports of DEC (R26). -/
structure DecPorts where
  /-- `dec_code`, input. -/
  code : CodeVector
  /-- `dec_status`, output: 0 Ok, 1 ErrorFixed, 2 MultipleErrorsDetected (R51). -/
  status : BitVec 2
  /-- `dec_info`, output; a free value under status 2 (R51). -/
  info : BitVec 8
  /-- `dec_pos`, output; a free value under status 0 and 2 (R51). -/
  pos : BitVec 4
deriving DecidableEq, Repr

/-- The ports of PARGEN (R27). -/
structure PargenPorts where
  /-- `pg_in`, input. -/
  placed : CodeVector
  /-- `pg_out`, output. -/
  out : CodeVector
deriving DecidableEq, Repr

/-- The ports of SYND (R28). -/
structure SyndromePorts where
  /-- `syn_code`, input. -/
  code : CodeVector
  /-- `syn_mismatch`, output, packed by R52. -/
  mismatch : BitVec 5
deriving DecidableEq, Repr

/-- Everything the model holds. A unit's ports are `none` until its input port is first driven to valid bits: before
that its outputs are unspecified, and "a model expresses this by giving outputs only for inputs that are bit vectors"
(R30, R107; assumption 2). `pending` is the environment's, not the block's (assumption 3). -/
structure State where
  enc : Option EncPorts
  dec : Option DecPorts
  pg : Option PargenPorts
  syn : Option SyndromePorts
  pending : List Drive
deriving DecidableEq, Repr

/-- The faults of the hardware: none. R94: "no fault, stuck, hang or refusal outcome for any 8-bit or 13-bit input";
R95: no operation raises anything. The type has no constructor (assumption 12; safe). -/
inductive Fault where
deriving DecidableEq, Repr

/-- The reasons a step has no meaning. -/
inductive Refusal where
  /-- Raised by a refused arm of exec for an instruction not modelled; no arm is refused. Safe. -/
  | notModelled (mnemonic : String)
  /-- Raised by step for a pending drive whose number of bits is not its port's (R92): no port can be presented with
  it, so no instruction of the hardware is refused. Safe (assumption 8). -/
  | lengthMismatch (port : Port) (given : Nat)
deriving DecidableEq, Repr

/-- R30, R104: nothing to reset; no port driven yet, and the environment has nothing pending (assumptions 2 and 3). -/
def State.reset : State where
  enc := none
  dec := none
  pg := none
  syn := none
  pending := []

end Sys2Proof.Machine
end

