-- ==== Sys2Proof/Machine/Operands.lean ====
section
/-! DEFINITION. Operand assembly and port packings: the position lists of R8, `from_byte`, `to_byte`, `place`, `extract`
(R43 to R48), and the forms of the outcome and of the mismatch set at the ports (R51, R52). -/

namespace Sys2Proof.Machine

/-- R46: `INFO_POS[k]` is the CodeVector position of info bit `k`. -/
def infoPos : List Nat := [2, 4, 5, 6, 8, 9, 10, 11]

/-- R8: the positions of the four check bits. -/
def checkPos : List Nat := [0, 1, 3, 7]

/-- R8: the position of the checksum bit. -/
def checksumPos : Nat := 12

/-- R43: `D{k} = (b >> (7-k)) & 1`, for a byte value `b`. -/
def fromByte (b : Nat) : InfoVector :=
  (List.range 8).foldl (fun D k => setBit D k ((b >>> (7 - k)) % 2 == 1)) 0#8

/-- R44: `sum over k = 0..7 of D{k} * 2^(7-k)`. -/
def toByte (D : InfoVector) : Nat :=
  ((List.range 8).map fun k => (bitAt D k).toNat * 2 ^ (7 - k)).sum

/-- R47: 13 bits, all 0, then `V{INFO_POS[k]} <- D{k}`. -/
def place (D : InfoVector) : CodeVector :=
  infoPos.zipIdx.foldl (fun V pk => setBit V pk.1 (bitAt D pk.2)) 0#13

/-- R48: `D{k} = C{INFO_POS[k]}`. -/
def extract (C : CodeVector) : InfoVector :=
  infoPos.zipIdx.foldl (fun D pk => setBit D pk.2 (bitAt C pk.1)) 0#8

/-- R51: the outcome at the ports of DEC for the input `R`. The fields a variant does not have are free values. -/
def outcomePorts (R : CodeVector) : DecodeOutcome → DecPorts
  | .ok info => ⟨R, 0#2, info, Config.decDontCarePos R⟩
  | .errorFixed info position => ⟨R, 1#2, info, BitVec.ofNat 4 position.val⟩
  | .multipleErrorsDetected => ⟨R, 2#2, Config.decDontCareInfo R, Config.decDontCarePos R⟩

/-- R51 read by a consumer: the outcome the three output ports stand for. Status 3, and a position of 13 to 15 under
status 1, are "a broken implementation" (U8) and stand for none. The unspecified bits are never read. -/
def readOutcome (p : DecPorts) : Option DecodeOutcome :=
  if p.status = 0#2 then some (.ok p.info)
  else if p.status = 1#2 then
    if h : p.pos.toNat < 13 then some (.errorFixed p.info ⟨p.pos.toNat, h⟩) else none
  else if p.status = 2#2 then some .multipleErrorsDetected
  else none

/-- The positions `syn_mismatch` has a bit for, bit 0 first (R52). -/
def mismatchPos : List Nat := [0, 1, 3, 7, 12]

/-- R52: bit `b` of `syn_mismatch` is 1 iff position `mismatchPos[b]` is in the set. -/
def packMismatch (M : List Nat) : BitVec 5 :=
  mismatchPos.zipIdx.foldl (fun w pb => if pb.1 ∈ M then w ||| BitVec.twoPow 5 pb.2 else w) 0#5

/-- The set a `syn_mismatch` word stands for (R52), positions rising. -/
def unpackMismatch (w : BitVec 5) : List Nat :=
  (mismatchPos.zipIdx.filter fun pb => w.getLsbD pb.2).map Prod.fst

end Sys2Proof.Machine
end

