-- ==== Sys2Proof/Machine/Flags.lean ====
section
/-! DEFINITION. The check-bit and parity computations every unit shares: `checks`, `span_parity` (R58, R59), the overall
parity and the syndrome number (R71, R73), `flip_index` (R72). The hardware has no flag register (R17). -/

namespace Sys2Proof.Machine

/-- R8: `COVER(0)`. -/
def cover0 : List Nat := [2, 4, 6, 8, 10]
/-- R8: `COVER(1)`. -/
def cover1 : List Nat := [2, 5, 6, 9, 10]
/-- R8: `COVER(3)`. -/
def cover3 : List Nat := [4, 5, 6, 11]
/-- R8: `COVER(7)`. -/
def cover7 : List Nat := [8, 9, 10, 11]

/-- R58: the four check bits of the information positions of `V`. -/
def checks (V : CodeVector) : CheckBits where
  k0 := xorAt V cover0
  k1 := xorAt V cover1
  k3 := xorAt V cover3
  k7 := xorAt V cover7

/-- R59: `XOR{ V{i} : i in 0..11 }`. -/
def spanParity (V : CodeVector) : Bool :=
  xorAt V (List.range 12)

/-- The overall parity `XOR{ V{i} : i in 0..12 }` (R67, R71, R84). -/
def overallParity (V : CodeVector) : Bool :=
  xorAt V (List.range 13)

/-- `V{0} <- k0 ; V{1} <- k1 ; V{3} <- k3 ; V{7} <- k7`, the assignments R60 and R68 share. -/
def writeChecks (V : CodeVector) (K : CheckBits) : CodeVector :=
  setBit (setBit (setBit (setBit V 0 K.k0) 1 K.k1) 3 K.k3) 7 K.k7

/-- R73: `s = 1*m_0 + 2*m_1 + 4*m_3 + 8*m_7` with `m_j = R{j} ^ checks(R)_j` (R70). -/
def syndromeNumber (R : CodeVector) : Nat :=
  1 * (bitAt R 0 ^^ (checks R).k0).toNat + 2 * (bitAt R 1 ^^ (checks R).k1).toNat
    + 4 * (bitAt R 3 ^^ (checks R).k3).toNat + 8 * (bitAt R 7 ^^ (checks R).k7).toNat

/-- R72: `sum{ p : p in M' } + (count(M') - 1)`, for a non-empty `M'`. -/
def flipIndex (M' : List Nat) : Nat :=
  M'.sum + (M'.length - 1)

/-- R8: a candidate flip index greater than or equal to this is rejected. -/
def flipLimit : Nat := 12

end Sys2Proof.Machine
end

