-- ==== Sys2Proof/Machine/Ops.lean ====
section
/-! DEFINITION. The named operations over the state: the presentation of an input to a unit and of the unit's result on
its output ports (R25 to R29). There is no memory and no register to read or write (R15, R31), and no exception to take
or return from (R95, R98, R99; assumption 12). -/

namespace Sys2Proof.Machine

/-- `enc_info` carries `D` and `enc_code` carries `C` (R25). The other units' ports are untouched (R29, R40). -/
def State.putEnc (s : State) (D : InfoVector) (C : CodeVector) : State :=
  { s with enc := some ⟨D, C⟩ }

/-- The ports of DEC carry `p` (R26). -/
def State.putDec (s : State) (p : DecPorts) : State :=
  { s with dec := some p }

/-- `pg_in` carries `V` and `pg_out` carries `W` (R27). -/
def State.putPargen (s : State) (V W : CodeVector) : State :=
  { s with pg := some ⟨V, W⟩ }

/-- `syn_code` carries `R` and `syn_mismatch` carries `m` (R28). -/
def State.putSyndrome (s : State) (R : CodeVector) (m : BitVec 5) : State :=
  { s with syn := some ⟨R, m⟩ }

/-- The environment's stimuli still to come become `ds` (R103). -/
def State.setPending (s : State) (ds : List Drive) : State :=
  { s with pending := ds }

end Sys2Proof.Machine
end

