-- ==== Sys2Proof/Machine/SyndromeCalculator.lean ====
section
/-! DEFINITION. Unit SYND: spec/42_syndrome_calculator.md, steps 1 and 2 of decode. -/

namespace Sys2Proof.Machine

/-- R68: the check bits from `R`'s information positions, the checksum over the RECEIVED positions 0 to 11
(spec/90_conflicts.md C5; assumption 13). -/
def recompute (R : CodeVector) : CodeVector :=
  setBit (writeChecks R (checks R)) checksumPos (spanParity R)

/-- Decode step 2 (R69): the positions 0..12 where `R` and `Q` disagree, rising. -/
def disagreements (R Q : CodeVector) : List Nat :=
  (List.range 13).filter fun i => bitAt R i != bitAt Q i

/-- R69: the mismatch set of the received vector. -/
def mismatchSet (R : CodeVector) : List Nat :=
  disagreements R (recompute R)

/-- SYNDROME (R69, packing R52): no flag, no exception, total on all 8192 inputs. -/
def execSyndrome (R : CodeVector) (s : State) : Host.Outcome State Fault Refusal :=
  .next (s.putSyndrome R (packMismatch (mismatchSet R)))

end Sys2Proof.Machine
end

