-- ==== Sys2Proof/Machine/Decoder.lean ====
section
/-! DEFINITION. Unit DEC: spec/43_decoder.md. -/

namespace Sys2Proof.Machine

/-- Steps 7 and 8 of R76 for a candidate position `f` below the limit: flip the bit in a copy of the RECEIVED vector
(R80), then compare the recomputed checksum with the checksum bit the copy carries (R81, spec/90_conflicts.md C1;
assumption 13). -/
def correctAt (R : CodeVector) (f : Fin 13) : DecodeOutcome :=
  let W := flipBit R f.val
  if spanParity W != bitAt W checksumPos then .multipleErrorsDetected
  else .errorFixed (extract W) f

/-- Steps 3 to 8 of R76 for the mismatch set `M` of the received vector `R`. -/
def decodeWith (M : List Nat) (R : CodeVector) : DecodeOutcome :=
  if M = [] then .ok (extract R)
  else
    let M' := M.filter (· != checksumPos)
    if M' = [] then .errorFixed (extract R) 12
    else if flipIndex M' ≥ flipLimit then .multipleErrorsDetected
    else correctAt R (Fin.ofNat 13 (flipIndex M'))

/-- R76: `DECODE(R)`. -/
def decodeVector (R : CodeVector) : DecodeOutcome :=
  decodeWith (mismatchSet R) R

/-- DECODE (R76, packing R51): no flag, no exception, total on all 8192 inputs (R82). -/
def execDecode (R : CodeVector) (s : State) : Host.Outcome State Fault Refusal :=
  .next (s.putDec (outcomePorts R (decodeVector R)))

end Sys2Proof.Machine
end

