-- ==== Sys2Proof/Machine/ParityGenerator.lean ====
section
/-! DEFINITION. Unit PARGEN: spec/40_parity_generator.md. -/

namespace Sys2Proof.Machine

/-- R60: the check bits of `V`'s information positions, then the checksum over the copy that holds them. -/
def parityGenerate (V : CodeVector) : CodeVector :=
  let W := writeChecks V (checks V)
  setBit W checksumPos (spanParity W)

/-- PARGEN (R60): no flag, no exception, total on all 8192 inputs. -/
def execPargen (V : CodeVector) (s : State) : Host.Outcome State Fault Refusal :=
  .next (s.putPargen V (parityGenerate V))

end Sys2Proof.Machine
end

