-- ==== Sys2Proof/Machine/Encoder.lean ====
section
/-! DEFINITION. Unit ENC: spec/41_encoder.md. -/

namespace Sys2Proof.Machine

/-- R64: `PARGEN(place(D))`. -/
def encodeVector (D : InfoVector) : CodeVector :=
  parityGenerate (place D)

/-- ENCODE (R64): no flag, no exception, total on all 256 inputs (R65). -/
def execEncode (D : InfoVector) (s : State) : Host.Outcome State Fault Refusal :=
  .next (s.putEnc D (encodeVector D))

end Sys2Proof.Machine
end

