-- ==== Sys2Proof/Machine/Dispatch.lean ====
section
/-! DEFINITION. One arm per operation (R53). -/

namespace Sys2Proof.Machine

def exec (i : Instr) (s : State) : Host.Outcome State Fault Refusal :=
  match i with
  | .encode D => Sys2Proof.Machine.execEncode D s
  | .decode C => Sys2Proof.Machine.execDecode C s
  | .pargen V => Sys2Proof.Machine.execPargen V s
  | .syndrome R => Sys2Proof.Machine.execSyndrome R s

end Sys2Proof.Machine
end

