-- ==== Sys2Proof/Machine/Step.lean ====
section
/-! DEFINITION. One step of the machine is one evaluation of one unit on one input (R13, R16, D15): the oldest stimulus
the environment has pending is presented. -/

namespace Sys2Proof.Machine

/-- The oldest pending drive is decoded and its operation evaluated; a drive of the wrong length is refused by name
(R92, assumption 8). With nothing pending no input changes, so no output does (R30, R104, assumption 4). -/
def step (s : State) : Host.Outcome State Fault Refusal :=
  match s.pending with
  | [] => .next s
  | d :: ds =>
    match decode d with
    | .ok i => exec i (s.setPending ds)
    | .error e => .refused (.lengthMismatch d.port e.given)

/-- The table word stands first among the pending drives, so the very next step presents it: assumption 3. -/
def State.withFetchWord (s : State) (nbits w : Nat) : State :=
  s.setPending (tableDrive nbits w :: s.pending)

end Sys2Proof.Machine
end

