-- ==== Sys2Proof/Machine/Channel.lean ====
section
/-! DEFINITION. The environment's channel between ENC and DEC (R57, R103): it is not hardware, and claims about
correction and detection are stated over it. -/

namespace Sys2Proof.Machine

/-- `V` with the bit at each listed position inverted, in list order. -/
def flipAll {n : Nat} (V : BitVec n) (ps : List Nat) : BitVec n :=
  ps.foldl flipBit V

/-- The fault injector's deterministic part (R57 FLIP; R103 `break_one_bit`, `break_two_bits`, `break_n_bits`): flips
the listed distinct positions and returns them in selection order. Which positions are chosen is the caller's (U6); a
list with a repeat or a position past the end has no result (U3; assumption 14). -/
def injectFaults {n : Nat} (V : BitVec n) (ps : List Nat) : Option (BitVec n × List Nat) :=
  if flipListWf n ps then some (flipAll V ps, ps) else none

/-- R103: "the channel XORs the codeword with an arbitrary 13-bit error mask". -/
def channel (C mask : CodeVector) : CodeVector :=
  C ^^^ mask

/-- The number of ones of a vector (R67, R103). -/
def weight {n : Nat} (V : BitVec n) : Nat :=
  (toBits V).count true

end Sys2Proof.Machine
end

