-- ==== Sys2Proof/Machine/Script.lean ====
section
/-! DEFINITION. The operation-script notation (R56, R57): the environment's test scripts, as syntax and as an evaluator
that runs each operation line on the machine by exec. It adds no behaviour of the hardware (assumption 15). -/

namespace Sys2Proof.Machine

/-- What a name is bound to (R56). A mismatch set is listed with positions rising. -/
inductive ScriptValue where
  | byte (b : Byte)
  | info (D : InfoVector)
  | code (C : CodeVector)
  | outcome (o : DecodeOutcome)
  | mismatch (M : List Nat)
deriving DecidableEq, Repr

/-- R56 `<info>`: a byte literal, an 8-character bit string, or an earlier name; and the `info` of an earlier outcome. -/
inductive InfoOperand where
  | byte (b : Byte)
  | text (t : String)
  | name (x : String)
  | infoOf (x : String)
deriving DecidableEq, Repr

/-- R56 `<code>`: a 13-character bit string, a bus word of R50, or an earlier name. -/
inductive CodeOperand where
  | bus (w : CodeVector)
  | text (t : String)
  | name (x : String)
deriving DecidableEq, Repr

/-- R56, R57: one line of a script. -/
inductive ScriptLine where
  | encode (x : String) (a : InfoOperand)
  | decode (x : String) (a : CodeOperand)
  | pargen (x : String) (a : CodeOperand)
  | syndrome (x : String) (a : CodeOperand)
  | flip (x : String) (a : CodeOperand) (ps : List Nat)
  | fromByte (x : String) (b : Byte)
  | toByte (x : String) (a : InfoOperand)
  | expect (x : String) (v : ScriptValue)
deriving DecidableEq, Repr

/-- Why a script stops: never because of the hardware (R94). -/
inductive ScriptError where
  | unbound (x : String)
  | wrongKind (x : String)
  | notABit (t : String)
  | lengthMismatch (e : LengthMismatch)
  | badFlipList (ps : List Nat)
  | expectFailed (x : String)
  | noResult (x : String)
deriving DecidableEq, Repr

/-- The machine and the names bound so far, latest first. -/
structure ScriptState where
  machine : State
  names : List (String × ScriptValue)
deriving DecidableEq, Repr

/-- A bit string as a vector of length `n` (R55). -/
def parseText (n : Nat) (t : String) : Except ScriptError (BitVec n) :=
  match t.toList.mapM bitOfChar with
  | none => .error (.notABit t)
  | some bs =>
    match vectorOfBits n bs with
    | .ok V => .ok V
    | .error e => .error (.lengthMismatch e)

/-- The value bound to a name. -/
def lookupName (σ : ScriptState) (x : String) : Except ScriptError ScriptValue :=
  match σ.names.lookup x with
  | some v => .ok v
  | none => .error (.unbound x)

/-- The InfoVector an `<info>` operand stands for (R43, R56). -/
def evalInfo (σ : ScriptState) : InfoOperand → Except ScriptError InfoVector
  | .byte b => .ok (fromByte b.toNat)
  | .text t => parseText 8 t
  | .name x =>
    match lookupName σ x with
    | .ok (.info D) => .ok D
    | .ok _ => .error (.wrongKind x)
    | .error e => .error e
  | .infoOf x =>
    match lookupName σ x with
    | .ok (.outcome (.ok D)) => .ok D
    | .ok (.outcome (.errorFixed D _)) => .ok D
    | .ok _ => .error (.wrongKind x)
    | .error e => .error e

/-- The CodeVector a `<code>` operand stands for (R50, R56). -/
def evalCode (σ : ScriptState) : CodeOperand → Except ScriptError CodeVector
  | .bus w => .ok w
  | .text t => parseText 13 t
  | .name x =>
    match lookupName σ x with
    | .ok (.code C) => .ok C
    | .ok _ => .error (.wrongKind x)
    | .error e => .error e

/-- The result on the output ports of the unit whose input port is `p`. -/
def readResult (p : Port) (s : State) : Option ScriptValue :=
  match p with
  | .encInfo => s.enc.map fun q => .code q.code
  | .decCode => (s.dec.bind readOutcome).map .outcome
  | .pgIn => s.pg.map fun q => .code q.out
  | .synCode => s.syn.map fun q => .mismatch (unpackMismatch q.mismatch)

/-- The input port of an operation's unit (R53). -/
def instrPort : Instr → Port
  | .encode _ => .encInfo
  | .decode _ => .decCode
  | .pargen _ => .pgIn
  | .syndrome _ => .synCode

/-- Bind a name. -/
def bindName (σ : ScriptState) (x : String) (v : ScriptValue) : ScriptState :=
  { σ with names := (x, v) :: σ.names }

/-- One operation line: one independent evaluation (R56), its result read from the unit's output ports. -/
def runOperation (x : String) (i : Instr) (σ : ScriptState) : Except ScriptError ScriptState :=
  match exec i σ.machine with
  | .next t =>
    match readResult (instrPort i) t with
    | some v => .ok (bindName { σ with machine := t } x v)
    | none => .error (.noResult x)
  | .fault _ => .error (.noResult x)
  | .refused _ => .error (.noResult x)

/-- Equal values; mismatch sets are compared as sets (R24). -/
def sameValue : ScriptValue → ScriptValue → Bool
  | .mismatch M, .mismatch N => M.all (· ∈ N) && N.all (· ∈ M)
  | v, w => v == w

/-- One line of a script (R56, R57). -/
def runLine (l : ScriptLine) (σ : ScriptState) : Except ScriptError ScriptState :=
  match l with
  | .encode x a => (evalInfo σ a).bind fun D => runOperation x (.encode D) σ
  | .decode x a => (evalCode σ a).bind fun C => runOperation x (.decode C) σ
  | .pargen x a => (evalCode σ a).bind fun V => runOperation x (.pargen V) σ
  | .syndrome x a => (evalCode σ a).bind fun R => runOperation x (.syndrome R) σ
  | .flip x a ps =>
    (evalCode σ a).bind fun C =>
      match injectFaults C ps with
      | some (C', _) => .ok (bindName σ x (.code C'))
      | none => .error (.badFlipList ps)
  | .fromByte x b => .ok (bindName σ x (.info (fromByte b.toNat)))
  | .toByte x a => (evalInfo σ a).bind fun D => .ok (bindName σ x (.byte (BitVec.ofNat 8 (toByte D))))
  | .expect x v =>
    (lookupName σ x).bind fun w => if sameValue w v then .ok σ else .error (.expectFailed x)

/-- A script is a list of lines; it has no control flow (R56). -/
def runScript : List ScriptLine → ScriptState → Except ScriptError ScriptState
  | [], σ => .ok σ
  | l :: ls, σ => (runLine l σ).bind (runScript ls)

/-- A set of positions as text (R56); the two set brackets are the characters 123 and 125. -/
def renderPositions (M : List Nat) : String :=
  String.ofList [Char.ofNat 123] ++ String.intercalate "," (M.map Nat.repr) ++ String.ofList [Char.ofNat 125]

/-- One hexadecimal digit, upper case as R50 and R56 write them. -/
def hexDigit (n : Nat) : Char :=
  "0123456789ABCDEF".toList.getD n '0'

/-- A byte as text: R56's hexadecimal byte literal, with two digits. R56 gives a TO_BYTE result no written form, so the
form is the model's choice (DESIGN CHOICE, assumption 18). -/
def renderByte (b : Byte) : String :=
  String.ofList ['0', 'x', hexDigit (b.toNat / 16), hexDigit (b.toNat % 16)]

/-- A result as the script notation writes it (R55, R56). How a byte is written is the model's choice (DESIGN CHOICE,
assumption 18). -/
def renderValue : ScriptValue → String
  | .byte b => renderByte b
  | .info D => render D
  | .code C => render C
  | .outcome (.ok D) => "Ok " ++ render D
  | .outcome (.errorFixed D p) => "ErrorFixed " ++ render D ++ " " ++ Nat.repr p.val
  | .outcome .multipleErrorsDetected => "MultipleErrorsDetected"
  | .mismatch M => renderPositions M

end Sys2Proof.Machine
end

