-- ==== Sys2Proof/Safety.lean ====
section
/-! DEFINITION. The terms claims use: valid codewords, states whose ports agree with the units' functions, and runs that
never stop. -/

namespace Sys2Proof.Machine

/-- R65: the outputs of ENCODE. -/
def ValidCodeword (C : CodeVector) : Prop :=
  ∃ D : InfoVector, C = encodeVector D

/-- R30, R104: each driven unit's output ports carry the function of its input port. -/
def State.PortsOk (s : State) : Prop :=
  (∀ p, s.enc = some p → p.code = encodeVector p.info) ∧
  (∀ p, s.dec = some p → p = outcomePorts p.code (decodeVector p.code)) ∧
  (∀ p, s.pg = some p → p.out = parityGenerate p.placed) ∧
  (∀ p, s.syn = some p → p.mismatch = packMismatch (mismatchSet p.code))

/-- What the spec promises of the output ports of every driven unit, in terms of codewords (R65, R67, R71, R77, R82,
R88): `enc_code` and `pg_out` are valid codewords; status 0 means a valid codeword and its payload; status 1 names a
position whose flip gives the valid codeword of `dec_info`; status 2 is never given to a valid codeword; status 3 never
occurs; `syn_mismatch` is 0 exactly on valid codewords and its bit 4 is the overall parity. -/
def State.PortsLawful (s : State) : Prop :=
  (∀ p, s.enc = some p → p.code = encodeVector p.info ∧ overallParity p.code = false ∧ mismatchSet p.code = []) ∧
  (∀ p, s.dec = some p →
    p.status ≠ 3#2 ∧
    (p.status = 0#2 → p.code = encodeVector p.info) ∧
    (p.status = 1#2 → p.pos.toNat < 13 ∧ flipBit p.code p.pos.toNat = encodeVector p.info) ∧
    (p.status = 2#2 → ¬ ValidCodeword p.code)) ∧
  (∀ p, s.pg = some p → p.out = encodeVector (extract p.placed) ∧ mismatchSet p.out = []) ∧
  (∀ p, s.syn = some p →
    (p.mismatch = 0#5 ↔ ValidCodeword p.code) ∧ p.mismatch.getLsbD 4 = overallParity p.code)

/-- Every pending drive has its port's length. -/
def State.PendingOk (s : State) : Prop :=
  ∀ d ∈ s.pending, d.wf = true

/-- A state of a safe run. -/
def State.Safe (s : State) : Prop :=
  s.PortsOk ∧ s.PendingOk

/-- A safe run of `n` steps ends in a next state: no fault and no refusal on the way. -/
def RunsSafely (n : Nat) (s : State) : Prop :=
  ∃ t, Host.Core.run core n s = .next t

/-- The ports of one unit, named by its input port, are the same in two states. -/
def State.SamePorts (p : Port) (s t : State) : Prop :=
  match p with
  | .encInfo => s.enc = t.enc
  | .decCode => s.dec = t.dec
  | .pgIn => s.pg = t.pg
  | .synCode => s.syn = t.syn

/-- The last drive of a list that goes to port `p`. -/
def lastDrive (p : Port) (ds : List Drive) : Option Drive :=
  (ds.filter fun d => d.port = p).getLast?

end Sys2Proof.Machine
end

