-- ==== Sys2Proof/Certificates/Slice0/Obligations.lean ====
section
/-! DEFINITION. The statements for the provers. Each cites the rule of spec/ it formalises, or says which choice of the
model it is about. -/

open Sys2Proof Sys2Proof.Machine

/-! ### The machine -/

/-- A step evaluates the operation its oldest pending drive decodes to (R13, R16, R53). The queue of drives is the
model's (assumption 3). -/
def Obligations.StepRunsDecodedInstruction : Prop :=
  ∀ (s : State) (d : Drive) (ds : List Drive) (i : Instr),
    s.pending = d :: ds → decode d = .ok i → step s = exec i (s.setPending ds)

/-- With nothing pending no port changes (R30, R104; the idle step is the model's, assumption 4). -/
def Obligations.StepIdlesWithNothingPending : Prop :=
  ∀ s : State, s.pending = [] → step s = .next s

/-- A raw drive of the wrong length is refused by name and changes nothing (R92; assumption 8). -/
def Obligations.StepRefusesWrongLengthDrive : Prop :=
  ∀ (s : State) (d : Drive) (ds : List Drive),
    s.pending = d :: ds → d.bits.length ≠ portWidth d.port →
      step s = .refused (.lengthMismatch d.port d.bits.length)

/-- R94: every operation completes, in every state, on every input. -/
def Obligations.EveryOperationCompletes : Prop :=
  ∀ (i : Instr) (s : State), ∃ t, exec i s = .next t

/-- R29, R40: an operation writes its own unit's ports and nothing else. -/
def Obligations.OperationTouchesOnlyItsUnit : Prop :=
  ∀ (i : Instr) (s : State), ∃ t, exec i s = .next t ∧ t.pending = s.pending ∧
    ∀ p, p ≠ instrPort i → State.SamePorts p s t

/-- R13, R38: what an operation puts on its unit's ports does not depend on what any port carried before. -/
def Obligations.ResultIndependentOfHistory : Prop :=
  ∀ (i : Instr) (s s' : State), ∃ t t', exec i s = .next t ∧ exec i s' = .next t' ∧
    State.SamePorts (instrPort i) t t'

/-- R40: operations of two different units give the same ports in either order. -/
def Obligations.DifferentUnitsCommute : Prop :=
  ∀ (i j : Instr) (s : State), instrPort i ≠ instrPort j →
    ∃ ti tj t, exec i s = .next ti ∧ exec j s = .next tj ∧ exec j ti = .next t ∧ exec i tj = .next t

/-- R36, R99: presenting the same input again changes nothing. -/
def Obligations.SameInputAgainSameOutput : Prop :=
  ∀ (i : Instr) (s : State), ∃ t, exec i s = .next t ∧ exec i t = .next t

/-- After reset no port is driven and no drive is pending (assumptions 2 and 3 name the model's choices). -/
def Obligations.ResetHasNothingDriven : Prop :=
  State.reset.enc = none ∧ State.reset.dec = none ∧ State.reset.pg = none ∧ State.reset.syn = none ∧
    State.reset.pending = []

/-- The state after reset is safe and lawful. This rests on the model's reset values: no unit driven (DESIGN CHOICE,
assumption 2) and nothing pending (DESIGN CHOICE, assumption 3). The spec gives the block no reset state (R104). -/
def Obligations.ResetIsSafeAndLawful : Prop :=
  State.reset.Safe ∧ State.reset.PortsLawful

/-- R30, R104: in every state reached by a step, each driven unit's outputs carry the function of its input. -/
def Obligations.StepKeepsPortsOk : Prop :=
  ∀ s t : State, s.PortsOk → step s = .next t → t.PortsOk

/-- The promises the spec makes of the output ports, kept by every step. -/
def Obligations.StepKeepsPortsLawful : Prop :=
  ∀ s t : State, s.PortsLawful → step s = .next t → t.PortsLawful

/-- From a safe state any number of steps runs without a fault or a refusal. That an operation stops on no input is R94
and R111. That a run goes on past its last pending drive is the model's idle step (DEDUCED, unsafe: assumption 4), and
the list of pending drives is the model's own (DESIGN CHOICE, assumption 3). -/
def Obligations.SafeStateRunsForEver : Prop :=
  ∀ (n : Nat) (s : State), s.Safe → RunsSafely n s

/-- A safe state steps to a safe state: the step answers a next state, its driven ports again carry the functions of
their inputs (R30, R104), and its pending drives again fit their ports (R92). That no operation stops is R94. The step
with nothing pending is the model's idle step (DEDUCED, unsafe: assumption 4), and the list of pending drives is the
model's own (DESIGN CHOICE, assumption 3). -/
def Obligations.StepKeepsSafe : Prop :=
  ∀ s : State, s.Safe → ∃ t, step s = .next t ∧ t.Safe

/-- R13, R38, R106: running a list of drives leaves each unit with the result of the last drive to it alone, whatever
was driven before or in between, on this unit or on another. The list of drives a run takes is the model's own (DESIGN
CHOICE, assumption 3). -/
def Obligations.RunLeavesLastDriveOfEachUnit : Prop :=
  ∀ (ds : List Drive) (s : State), (∀ d ∈ ds, d.wf = true) →
    ∃ t, Host.Core.run core ds.length (s.setPending ds) = .next t ∧ t.pending = [] ∧
      ∀ p, (lastDrive p ds = none → State.SamePorts p s t) ∧
        (∀ d, lastDrive p ds = some d → ∃ i u, decode d = .ok i ∧ exec i s = .next u ∧ State.SamePorts p u t)

/-! ### Drives, words and vectors -/

/-- Every operation is what its own stimulus decodes to. -/
def Obligations.DecodeOfEncode : Prop :=
  ∀ i : Instr, decode (encode i) = .ok i

/-- No other stimulus decodes to it. -/
def Obligations.EncodeOfDecode : Prop :=
  ∀ (d : Drive) (i : Instr), decode d = .ok i → encode i = d

/-- R54, R92: exactly the drives of their port's length decode, and every such bit pattern is legal. -/
def Obligations.DriveDecodesIffLengthFits : Prop :=
  ∀ d : Drive, (d.wf = true ↔ ∃ i, decode d = .ok i) ∧
    (d.wf = false ↔ decode d = .error ⟨portWidth d.port, d.bits.length⟩)

/-- Drives written out bit by bit from R42 and R45 decode to the operation they stand for. -/
def Obligations.WrittenOutDrivesDecode : Prop :=
  decode ⟨.encInfo, [false, true, true, true, false, true, true, true]⟩ = .ok (.encode 0x77#8) ∧
  decode ⟨.decCode, [true, false, false, false, false, true, true, true, false, true, true, true, false]⟩
    = .ok (.decode 0x10EE#13) ∧
  decode ⟨.pgIn, [false, false, false, false, true, true, true, false, false, true, true, true, false]⟩
    = .ok (.pargen 0x01CE#13) ∧
  decode ⟨.synCode, [true, false, false, true, false, true, true, true, false, true, true, true, false]⟩
    = .ok (.syndrome 0x12EE#13)

/-- A table word placed for the next step is the operation that step runs (the model's convention, assumptions 3, 6). -/
def Obligations.TableWordIsTheNextStep : Prop :=
  ∀ (s : State) (nbits w : Nat) (i : Instr),
    decodeTableWord nbits w = some i → step (s.withFetchWord nbits w) = exec i s

/-- R55: the vector constructor succeeds exactly on lists of the right length, and keeps every bit. -/
def Obligations.VectorConstructorKeepsBits : Prop :=
  ∀ (n : Nat) (bs : List Bool),
    (bs.length = n → ∃ V : BitVec n, vectorOfBits n bs = .ok V ∧ toBits V = bs) ∧
    (bs.length ≠ n → vectorOfBits n bs = .error ⟨n, bs.length⟩)

/-- R55: reading back the textual rendering of a vector gives the vector. -/
def Obligations.RenderedTextParsesBack : Prop :=
  ∀ (n : Nat) (V : BitVec n), parseText n (render V) = .ok V

/-- R50: document index `i` is bus bit `12 - i`, and the rendering read as a binary numeral is the bus value. -/
def Obligations.CodeVectorBusNumbering : Prop :=
  (∀ (C : CodeVector) (i : Nat), i < 13 → C.getLsbD (12 - i) = bitAt C i) ∧
  (∀ C : CodeVector, C.toNat = ((List.range 13).map fun i => (bitAt C i).toNat * 2 ^ (12 - i)).sum) ∧
  (∀ C : CodeVector, bitsValue ((render C).toList.map (· == '1')) = C.toNat) ∧
  vectorOfBits 13 [true, false, false, false, true, true, true, true, false, true, true, true, false]
    = .ok 0x11EE#13 ∧ render 0x11EE#13 = "1000111101110" ∧ (0x11EE#13).toNat = 4590

/-- R43: the bits of `from_byte`, and its identity on the 8-bit bus word. -/
def Obligations.FromByteBits : Prop :=
  (∀ b k : Nat, b < 256 → k < 8 → bitAt (fromByte b) k = (((b >>> (7 - k)) &&& 1) == 1)) ∧
  (∀ (D : InfoVector) (k : Nat), k < 8 → D.getLsbD (7 - k) = bitAt D k) ∧
  (∀ b : Nat, b < 256 → fromByte b = BitVec.ofNat 8 b) ∧
  toBits (fromByte 0b01110111) = [false, true, true, true, false, true, true, true]

/-- R44: `to_byte` is the weighted sum, and is lossless in both directions. -/
def Obligations.ByteConversionLossless : Prop :=
  (∀ D : InfoVector, toByte D =
    128 * (bitAt D 0).toNat + 64 * (bitAt D 1).toNat + 32 * (bitAt D 2).toNat + 16 * (bitAt D 3).toNat
      + 8 * (bitAt D 4).toNat + 4 * (bitAt D 5).toNat + 2 * (bitAt D 6).toNat + (bitAt D 7).toNat) ∧
  (∀ b : Nat, b < 256 → toByte (fromByte b) = b) ∧
  (∀ D : InfoVector, fromByte (toByte D) = D) ∧
  toByte 0b01110111#8 = 119

/-- R47, R48, R49: placement and extraction at the fixed positions, and what extraction ignores. -/
def Obligations.PlaceAndExtract : Prop :=
  (∀ D : InfoVector,
    bitAt (place D) 2 = bitAt D 0 ∧ bitAt (place D) 4 = bitAt D 1 ∧ bitAt (place D) 5 = bitAt D 2 ∧
    bitAt (place D) 6 = bitAt D 3 ∧ bitAt (place D) 8 = bitAt D 4 ∧ bitAt (place D) 9 = bitAt D 5 ∧
    bitAt (place D) 10 = bitAt D 6 ∧ bitAt (place D) 11 = bitAt D 7 ∧
    ∀ i ∈ [0, 1, 3, 7, 12], bitAt (place D) i = false) ∧
  (∀ C : CodeVector,
    bitAt (extract C) 0 = bitAt C 2 ∧ bitAt (extract C) 1 = bitAt C 4 ∧ bitAt (extract C) 2 = bitAt C 5 ∧
    bitAt (extract C) 3 = bitAt C 6 ∧ bitAt (extract C) 4 = bitAt C 8 ∧ bitAt (extract C) 5 = bitAt C 9 ∧
    bitAt (extract C) 6 = bitAt C 10 ∧ bitAt (extract C) 7 = bitAt C 11) ∧
  (∀ D : InfoVector, extract (place D) = D) ∧
  (∀ C C' : CodeVector, (∀ i ∈ [2, 4, 5, 6, 8, 9, 10, 11], bitAt C i = bitAt C' i) → extract C = extract C') ∧
  place 0b01110111#8 = 0b0000111001110#13 ∧ extract 0b1000111101110#13 = 0b01110111#8

/-! ### ENCODE and PARGEN -/

/-- R64: ENCODE completes, and `enc_code` is the written-out result. -/
def Obligations.EncodeWritesCodeword : Prop :=
  (∀ (D : InfoVector) (s : State), ∃ C : CodeVector,
    exec (.encode D) s = .next { s with enc := some ⟨D, C⟩ } ∧ C = parityGenerate (place D) ∧
    bitAt C 2 = bitAt D 0 ∧ bitAt C 4 = bitAt D 1 ∧ bitAt C 5 = bitAt D 2 ∧ bitAt C 6 = bitAt D 3 ∧
    bitAt C 8 = bitAt D 4 ∧ bitAt C 9 = bitAt D 5 ∧ bitAt C 10 = bitAt D 6 ∧ bitAt C 11 = bitAt D 7 ∧
    bitAt C 0 = (bitAt C 2 ^^ bitAt C 4 ^^ bitAt C 6 ^^ bitAt C 8 ^^ bitAt C 10) ∧
    bitAt C 1 = (bitAt C 2 ^^ bitAt C 5 ^^ bitAt C 6 ^^ bitAt C 9 ^^ bitAt C 10) ∧
    bitAt C 3 = (bitAt C 4 ^^ bitAt C 5 ^^ bitAt C 6 ^^ bitAt C 11) ∧
    bitAt C 7 = (bitAt C 8 ^^ bitAt C 9 ^^ bitAt C 10 ^^ bitAt C 11) ∧
    bitAt C 12 = (bitAt C 0 ^^ bitAt C 1 ^^ bitAt C 2 ^^ bitAt C 3 ^^ bitAt C 4 ^^ bitAt C 5 ^^ bitAt C 6 ^^
      bitAt C 7 ^^ bitAt C 8 ^^ bitAt C 9 ^^ bitAt C 10 ^^ bitAt C 11)) ∧
  encodeVector (fromByte 0x00) = 0b0000000000000#13 ∧ encodeVector (fromByte 0xFF) = 0b1110111011110#13 ∧
  encodeVector (fromByte 0x80) = 0b1110000000001#13 ∧ encodeVector (fromByte 0x10) = 0b1101001000000#13 ∧
  encodeVector (fromByte 0x77) = 0x11EE#13

/-- R66: the thirteen output bits in terms of the input bits. -/
def Obligations.EncodeOutputEquations : Prop :=
  ∀ (D : InfoVector) (s : State), ∃ C : CodeVector, exec (.encode D) s = .next { s with enc := some ⟨D, C⟩ } ∧
    bitAt C 0 = (bitAt D 0 ^^ bitAt D 1 ^^ bitAt D 3 ^^ bitAt D 4 ^^ bitAt D 6) ∧
    bitAt C 1 = (bitAt D 0 ^^ bitAt D 2 ^^ bitAt D 3 ^^ bitAt D 5 ^^ bitAt D 6) ∧
    bitAt C 2 = bitAt D 0 ∧
    bitAt C 3 = (bitAt D 1 ^^ bitAt D 2 ^^ bitAt D 3 ^^ bitAt D 7) ∧
    bitAt C 4 = bitAt D 1 ∧ bitAt C 5 = bitAt D 2 ∧ bitAt C 6 = bitAt D 3 ∧
    bitAt C 7 = (bitAt D 4 ^^ bitAt D 5 ^^ bitAt D 6 ^^ bitAt D 7) ∧
    bitAt C 8 = bitAt D 4 ∧ bitAt C 9 = bitAt D 5 ∧ bitAt C 10 = bitAt D 6 ∧ bitAt C 11 = bitAt D 7 ∧
    bitAt C 12 = (bitAt D 0 ^^ bitAt D 1 ^^ bitAt D 2 ^^ bitAt D 4 ^^ bitAt D 5 ^^ bitAt D 7)

/-- R65: ENCODE is total, its payload can be read back, and different inputs give different codewords. -/
def Obligations.EncodeTotalAndInjective : Prop :=
  (∀ (D : InfoVector) (s : State), ∃ t C, exec (.encode D) s = .next t ∧ t.enc = some ⟨D, C⟩ ∧ extract C = D) ∧
  (∀ D D' : InfoVector, D ≠ D' → ∀ s : State, ∃ C C' : CodeVector,
    exec (.encode D) s = .next { s with enc := some ⟨D, C⟩ } ∧
    exec (.encode D') s = .next { s with enc := some ⟨D', C'⟩ } ∧ C ≠ C')

/-- R67 (a), (b), (c): the code is linear, and its codewords are exactly the vectors that satisfy the five invariants. -/
def Obligations.ValidCodewordsAreLinearCode : Prop :=
  (∀ A B : InfoVector, encodeVector (A ^^^ B) = encodeVector A ^^^ encodeVector B) ∧ encodeVector 0#8 = 0#13 ∧
  (∀ C : CodeVector, ValidCodeword C ↔
    bitAt C 0 = (checks C).k0 ∧ bitAt C 1 = (checks C).k1 ∧ bitAt C 3 = (checks C).k3 ∧ bitAt C 7 = (checks C).k7 ∧
      bitAt C 12 = spanParity C) ∧
  (∀ C : CodeVector, ValidCodeword C → mismatchSet C = [] ∧ overallParity C = false ∧ C = encodeVector (extract C))

/-- R67 (d), (e): the weight distribution, and minimum distance 4. -/
def Obligations.CodewordWeightsAndDistance : Prop :=
  ([0, 4, 6, 8, 10, 12].map fun k => (List.range 256).countP fun b => weight (encodeVector (BitVec.ofNat 8 b)) == k)
    = [1, 55, 96, 87, 16, 1] ∧
  (∀ A B : InfoVector, A ≠ B → 4 ≤ weight (encodeVector A ^^^ encodeVector B)) ∧
  (∃ A B : InfoVector, weight (encodeVector A ^^^ encodeVector B) = 4)

/-- R60: PARGEN completes, and `pg_out` is the written-out result. -/
def Obligations.PargenWritesCodeword : Prop :=
  (∀ (V : CodeVector) (s : State), ∃ W : CodeVector,
    exec (.pargen V) s = .next { s with pg := some ⟨V, W⟩ } ∧
    bitAt W 0 = (bitAt V 2 ^^ bitAt V 4 ^^ bitAt V 6 ^^ bitAt V 8 ^^ bitAt V 10) ∧
    bitAt W 1 = (bitAt V 2 ^^ bitAt V 5 ^^ bitAt V 6 ^^ bitAt V 9 ^^ bitAt V 10) ∧
    bitAt W 3 = (bitAt V 4 ^^ bitAt V 5 ^^ bitAt V 6 ^^ bitAt V 11) ∧
    bitAt W 7 = (bitAt V 8 ^^ bitAt V 9 ^^ bitAt V 10 ^^ bitAt V 11) ∧
    (∀ p ∈ [2, 4, 5, 6, 8, 9, 10, 11], bitAt W p = bitAt V p) ∧
    bitAt W 12 = (bitAt W 0 ^^ bitAt W 1 ^^ bitAt W 2 ^^ bitAt W 3 ^^ bitAt W 4 ^^ bitAt W 5 ^^ bitAt W 6 ^^
      bitAt W 7 ^^ bitAt W 8 ^^ bitAt W 9 ^^ bitAt W 10 ^^ bitAt W 11)) ∧
  (∀ V V' : CodeVector, (∀ p ∈ [2, 4, 5, 6, 8, 9, 10, 11], bitAt V p = bitAt V' p) →
    parityGenerate V = parityGenerate V') ∧
  parityGenerate 0#13 = 0#13 ∧ parityGenerate 0b0000111001110#13 = 0b1000111101110#13

/-- R61: PARGEN reads the information positions only, is idempotent, and re-encodes them. -/
def Obligations.PargenReencodes : Prop :=
  ∀ (V : CodeVector) (s : State), ∃ W : CodeVector, exec (.pargen V) s = .next { s with pg := some ⟨V, W⟩ } ∧
    W = parityGenerate (place (extract V)) ∧ parityGenerate W = W ∧ W = encodeVector (extract V) ∧
    bitAt W 12 = (bitAt V 2 ^^ bitAt V 4 ^^ bitAt V 5 ^^ bitAt V 8 ^^ bitAt V 9 ^^ bitAt V 11)

/-- R62: the four cover lists are the Hamming subsets of the 1-indexed positions, and none covers the checksum. -/
def Obligations.CoverListsAreHammingSubsets : Prop :=
  ∀ (j : Nat) (c : List Nat), [cover0, cover1, cover3, cover7][j]? = some c →
    c = (List.range 12).filter (fun p => (p + 1).testBit j && p + 1 != 2 ^ j)

/-! ### SYNDROME -/

/-- R68: every bit of the recomputed vector; the received checksum bit enters none of them. -/
def Obligations.RecomputedVectorBits : Prop :=
  ∀ R : CodeVector,
    bitAt (recompute R) 0 = (bitAt R 2 ^^ bitAt R 4 ^^ bitAt R 6 ^^ bitAt R 8 ^^ bitAt R 10) ∧
    bitAt (recompute R) 1 = (bitAt R 2 ^^ bitAt R 5 ^^ bitAt R 6 ^^ bitAt R 9 ^^ bitAt R 10) ∧
    bitAt (recompute R) 3 = (bitAt R 4 ^^ bitAt R 5 ^^ bitAt R 6 ^^ bitAt R 11) ∧
    bitAt (recompute R) 7 = (bitAt R 8 ^^ bitAt R 9 ^^ bitAt R 10 ^^ bitAt R 11) ∧
    (∀ p ∈ [2, 4, 5, 6, 8, 9, 10, 11], bitAt (recompute R) p = bitAt R p) ∧
    bitAt (recompute R) 12 =
      (bitAt R 0 ^^ bitAt R 1 ^^ bitAt R 2 ^^ bitAt R 3 ^^ bitAt R 4 ^^ bitAt R 5 ^^ bitAt R 6 ^^ bitAt R 7 ^^
        bitAt R 8 ^^ bitAt R 9 ^^ bitAt R 10 ^^ bitAt R 11) ∧
    recompute (flipBit R 12) = recompute R

/-- R69: SYNDROME completes, and `syn_mismatch` is the set of positions where received and recomputed differ. -/
def Obligations.SyndromeWritesMismatchSet : Prop :=
  (∀ (R : CodeVector) (s : State), ∃ m : BitVec 5,
    exec (.syndrome R) s = .next { s with syn := some ⟨R, m⟩ } ∧
    (∀ i, i ∈ unpackMismatch m ↔ i < 13 ∧ bitAt R i ≠ bitAt (recompute R) i) ∧
    (∀ i ∈ [2, 4, 5, 6, 8, 9, 10, 11], i ∉ unpackMismatch m) ∧
    (unpackMismatch m = [] ↔ ValidCodeword R) ∧
    (unpackMismatch m = [12] ↔
      bitAt R 0 = (checks R).k0 ∧ bitAt R 1 = (checks R).k1 ∧ bitAt R 3 = (checks R).k3 ∧
        bitAt R 7 = (checks R).k7 ∧ overallParity R = true)) ∧
  mismatchSet 0b1000011101110#13 = [0, 3, 12] ∧ packMismatch [0, 3, 12] = 0b10101#5

/-- R52: each bit of `syn_mismatch`, its low four bits as the syndrome number, its top bit as the overall parity. -/
def Obligations.MismatchPortPacking : Prop :=
  ∀ (R : CodeVector) (s : State), ∃ m : BitVec 5, exec (.syndrome R) s = .next { s with syn := some ⟨R, m⟩ } ∧
    (m.getLsbD 0 = true ↔ 0 ∈ mismatchSet R) ∧ (m.getLsbD 1 = true ↔ 1 ∈ mismatchSet R) ∧
    (m.getLsbD 2 = true ↔ 3 ∈ mismatchSet R) ∧ (m.getLsbD 3 = true ↔ 7 ∈ mismatchSet R) ∧
    (m.getLsbD 4 = true ↔ 12 ∈ mismatchSet R) ∧ (∀ i ∈ mismatchSet R, i ∈ [0, 1, 3, 7, 12]) ∧
    m.toNat % 16 = syndromeNumber R ∧ m.getLsbD 4 = overallParity R

/-- R70: only five positions can mismatch, each by its own test, and the packing loses nothing. -/
def Obligations.OnlyFivePositionsMismatch : Prop :=
  ∀ R : CodeVector,
    (∀ p ∈ [2, 4, 5, 6, 8, 9, 10, 11], bitAt (recompute R) p = bitAt R p) ∧
    (∀ i ∈ mismatchSet R, i ∈ [0, 1, 3, 7, 12]) ∧
    (0 ∈ mismatchSet R ↔ (bitAt R 0 ^^ (checks R).k0) = true) ∧
    (1 ∈ mismatchSet R ↔ (bitAt R 1 ^^ (checks R).k1) = true) ∧
    (3 ∈ mismatchSet R ↔ (bitAt R 3 ^^ (checks R).k3) = true) ∧
    (7 ∈ mismatchSet R ↔ (bitAt R 7 ^^ (checks R).k7) = true) ∧
    unpackMismatch (packMismatch (mismatchSet R)) = mismatchSet R

/-- R71: position 12 mismatches exactly under odd overall parity; nothing mismatches exactly on valid codewords. -/
def Obligations.ChecksumMismatchIsOddParity : Prop :=
  ∀ R : CodeVector,
    (12 ∈ mismatchSet R ↔ bitAt R 12 ≠ spanParity R) ∧
    (12 ∈ mismatchSet R ↔ overallParity R = true) ∧
    (mismatchSet R = [] ↔
      bitAt R 0 = (checks R).k0 ∧ bitAt R 1 = (checks R).k1 ∧ bitAt R 3 = (checks R).k3 ∧
        bitAt R 7 = (checks R).k7 ∧ overallParity R = false) ∧
    (mismatchSet R = [] ↔ ValidCodeword R)

/-- R72, R73: the flip index of the remaining mismatches is the syndrome number less one; the table of all fifteen. -/
def Obligations.FlipIndexIsSyndromeLessOne : Prop :=
  (∀ R : CodeVector, syndromeNumber R ≤ 15 ∧
    (syndromeNumber R = 0 ↔ (mismatchSet R).filter (· != 12) = []) ∧
    ((mismatchSet R).filter (· != 12) ≠ [] →
      flipIndex ((mismatchSet R).filter (· != 12)) + 1 = syndromeNumber R)) ∧
  ([[0], [1], [0, 1], [3], [0, 3], [1, 3], [0, 1, 3], [7], [0, 7], [1, 7], [0, 1, 7], [3, 7], [0, 3, 7], [1, 3, 7],
    [0, 1, 3, 7]].map flipIndex) = List.range 15 ∧
  (∀ M ∈ [0, 1, 3, 7].sublists, M ≠ [] → flipIndex M = M.sum + (M.length - 1) ∧ flipIndex M ≤ 14)

/-- R74: the mismatch set of every single-bit error, independent of the codeword; and for any error pattern the set
depends on the pattern alone. -/
def Obligations.MismatchSetDependsOnErrorAlone : Prop :=
  (∀ D : InfoVector, ((List.range 13).map fun p => mismatchSet (flipBit (encodeVector D) p)) =
    [[0, 12], [1, 12], [0, 1, 12], [3, 12], [0, 3, 12], [1, 3, 12], [0, 1, 3, 12], [7, 12], [0, 7, 12], [1, 7, 12],
      [0, 1, 7, 12], [3, 7, 12], [12]]) ∧
  (∀ (D : InfoVector) (p : Nat), p < 12 →
    flipIndex ((mismatchSet (flipBit (encodeVector D) p)).filter (· != 12)) = p) ∧
  (∀ (D : InfoVector) (E : CodeVector),
    mismatchSet (channel (encodeVector D) E) = mismatchSet E ∧
    syndromeNumber (channel (encodeVector D) E) =
      ((List.range 12).filter (bitAt E ·)).foldl (fun acc p => acc ^^^ (p + 1)) 0 ∧
    (12 ∈ mismatchSet (channel (encodeVector D) E) ↔ weight E % 2 = 1))

/-- R75: recomputing the checksum over the recomputed check bits instead changes at most position 12 of the mismatch
set, and never DECODE's outcome. -/
def Obligations.ChecksumReadingsDecodeAlike : Prop :=
  ∀ R : CodeVector,
    decodeWith (disagreements R (parityGenerate R)) R = decodeVector R ∧
    (∀ i, i ≠ 12 → bitAt (parityGenerate R) i = bitAt (recompute R) i) ∧
    bitAt (parityGenerate R) 12 = (spanParity R ^^ (bitAt R 0 ^^ (checks R).k0) ^^ (bitAt R 1 ^^ (checks R).k1) ^^
      (bitAt R 3 ^^ (checks R).k3) ^^ (bitAt R 7 ^^ (checks R).k7)) ∧
    (syndromeNumber R = 0 → parityGenerate R = recompute R)

/-! ### DECODE -/

/-- R51: the three variants at the ports of DEC, and that the unspecified bits carry no information. -/
def Obligations.OutcomePortPacking : Prop :=
  ∀ (R : CodeVector) (D x : InfoVector) (f : Fin 13) (y : BitVec 4),
    (outcomePorts R (.ok D)).status = 0#2 ∧ (outcomePorts R (.ok D)).info = BitVec.ofNat 8 (toByte D) ∧
    (outcomePorts R (.errorFixed D f)).status = 1#2 ∧
    (outcomePorts R (.errorFixed D f)).info = BitVec.ofNat 8 (toByte D) ∧
    (outcomePorts R (.errorFixed D f)).pos.toNat = f.val ∧
    (outcomePorts R .multipleErrorsDetected).status = 2#2 ∧
    (∀ o, (outcomePorts R o).status ≠ 3#2 ∧ (outcomePorts R o).code = R ∧ readOutcome (outcomePorts R o) = some o) ∧
    readOutcome { outcomePorts R (.ok D) with pos := y } = some (.ok D) ∧
    readOutcome { outcomePorts R .multipleErrorsDetected with info := x, pos := y } = some .multipleErrorsDetected

/-- R82: DECODE completes with exactly one of the three variants on its ports, on every input. -/
def Obligations.DecodeTotalAndExclusive : Prop :=
  ∀ (R : CodeVector) (s : State), ∃ p : DecPorts, exec (.decode R) s = .next { s with dec := some p } ∧
    p.code = R ∧ p.status ≠ 3#2 ∧ ∃ o, readOutcome p = some o

/-- R76, R83: the five cases, in the order the tests are made. -/
def Obligations.DecodeTestsInOrder : Prop :=
  ∀ (R : CodeVector) (s : State), ∃ (p : DecPorts) (o : DecodeOutcome) (M M' : List Nat),
    exec (.decode R) s = .next { s with dec := some p } ∧ p.code = R ∧ readOutcome p = some o ∧
    M = mismatchSet R ∧ M' = M.filter (· != 12) ∧
    ((M = [] ∧ o = .ok (extract R)) ∨
     (M = [12] ∧ o = .errorFixed (extract R) 12) ∨
     (M' ≠ [] ∧ 12 ≤ flipIndex M' ∧ o = .multipleErrorsDetected) ∨
     (M' ≠ [] ∧ flipIndex M' < 12 ∧ spanParity (flipBit R (flipIndex M')) ≠ bitAt (flipBit R (flipIndex M')) 12 ∧
       o = .multipleErrorsDetected) ∨
     (M' ≠ [] ∧ flipIndex M' < 12 ∧ spanParity (flipBit R (flipIndex M')) = bitAt (flipBit R (flipIndex M')) 12 ∧
       ∃ f : Fin 13, f.val = flipIndex M' ∧ o = .errorFixed (extract (flipBit R f.val)) f))

/-- R84: DECODE in closed form, by the syndrome number and the overall parity of the received vector. -/
def Obligations.DecodeClosedForm : Prop :=
  ∀ (R : CodeVector) (s : State), ∃ p : DecPorts, exec (.decode R) s = .next { s with dec := some p } ∧ p.code = R ∧
    readOutcome p = some
      (if syndromeNumber R = 0 then
        if overallParity R then .errorFixed (extract R) 12 else .ok (extract R)
      else if syndromeNumber R ≤ 12 ∧ overallParity R = true then
        .errorFixed (extract (flipBit R (syndromeNumber R - 1))) (Fin.ofNat 13 (syndromeNumber R - 1))
      else .multipleErrorsDetected)

/-- R84: how many of the 8192 inputs have each outcome, and each reported position. -/
def Obligations.DecodeOutcomeCounts : Prop :=
  ((List.range 8192).countP fun w => decodeVector (BitVec.ofNat 13 w) == .ok (extract (BitVec.ofNat 13 w))) = 256 ∧
  (∀ p : Fin 13, ((List.range 8192).countP fun w =>
    match decodeVector (BitVec.ofNat 13 w) with
    | .errorFixed _ q => q == p
    | _ => false) = 256) ∧
  ((List.range 8192).countP fun w => decodeVector (BitVec.ofNat 13 w) == .multipleErrorsDetected) = 4608

/-- R89: the ports of DEC by case. -/
def Obligations.DecodePortsByCase : Prop :=
  (∀ (R : CodeVector) (s : State), ∃ p : DecPorts, exec (.decode R) s = .next { s with dec := some p } ∧ p.code = R ∧
    (syndromeNumber R = 0 → overallParity R = false →
      p.status = 0#2 ∧ p.info = BitVec.ofNat 8 (toByte (extract R))) ∧
    (syndromeNumber R = 0 → overallParity R = true →
      p.status = 1#2 ∧ p.info = BitVec.ofNat 8 (toByte (extract R)) ∧ p.pos = 0b1100#4) ∧
    (1 ≤ syndromeNumber R → syndromeNumber R ≤ 12 → overallParity R = true →
      p.status = 1#2 ∧ p.info = BitVec.ofNat 8 (toByte (extract (flipBit R (syndromeNumber R - 1)))) ∧
        p.pos.toNat = syndromeNumber R - 1) ∧
    (1 ≤ syndromeNumber R → (13 ≤ syndromeNumber R ∨ overallParity R = false) → p.status = 2#2)) ∧
  decodeVector 0x11EE#13 = .ok 0x77#8 ∧ decodeVector 0x10EE#13 = .errorFixed 0x77#8 4 ∧
  decodeVector 0x12EE#13 = .multipleErrorsDetected

/-- R78, R79, R83: position 12 is reported only for a lone checksum mismatch. -/
def Obligations.PositionTwelveOnlyForLoneChecksum : Prop :=
  ∀ (R : CodeVector) (s : State), ∃ p : DecPorts, exec (.decode R) s = .next { s with dec := some p } ∧
    ((∃ D, readOutcome p = some (.errorFixed D 12)) ↔ mismatchSet R = [12]) ∧
    (mismatchSet R = [12] → readOutcome p = some (.errorFixed (extract R) 12))

/-- R88: what the reported position and information mean. -/
def Obligations.ReportedPositionIsCorrectedBit : Prop :=
  ∀ (R : CodeVector) (s : State), ∃ p : DecPorts, exec (.decode R) s = .next { s with dec := some p } ∧
    ∀ (D : InfoVector) (f : Fin 13), readOutcome p = some (.errorFixed D f) →
      flipBit R f.val = encodeVector D ∧ extract (flipBit R f.val) = D ∧
      (f.val ∈ [0, 1, 3, 7, 12] → extract R = D) ∧
      (∀ k, infoPos[k]? = some f.val → ∀ j, j < 8 → (bitAt D j ≠ bitAt (extract R) j ↔ j = k))

/-- R85: the clean round trip, and the correction of every single-bit error of every codeword. -/
def Obligations.SingleErrorsCorrected : Prop :=
  ∀ (b : Nat) (s : State), b < 256 → ∃ C : CodeVector,
    exec (.encode (fromByte b)) s = .next { s with enc := some ⟨fromByte b, C⟩ } ∧
    (∀ t : State, ∃ p, exec (.decode C) t = .next { t with dec := some p } ∧
      readOutcome p = some (.ok (fromByte b))) ∧
    (∀ (f : Fin 13) (t : State), ∃ p, exec (.decode (flipBit C f.val)) t = .next { t with dec := some p } ∧
      readOutcome p = some (.errorFixed (fromByte b) f))

/-- R86: every double-bit error of every codeword is detected. -/
def Obligations.DoubleErrorsDetected : Prop :=
  ∀ (D : InfoVector) (f g : Nat) (s : State), f < 13 → g < 13 → f ≠ g →
    ∃ p, exec (.decode (flipAll (encodeVector D) [f, g])) s = .next { s with dec := some p } ∧
      readOutcome p = some .multipleErrorsDetected

/-- R85, R86, R87, R103: a codeword sent through a channel that XORs any mask, by the weight of the mask. -/
def Obligations.CodewordThroughChannel : Prop :=
  ∀ (D : InfoVector) (E : CodeVector) (s : State), ∃ p o,
    exec (.decode (channel (encodeVector D) E)) s = .next { s with dec := some p } ∧ readOutcome p = some o ∧
    (weight E = 0 → o = .ok D) ∧
    (weight E = 1 → ∃ f : Fin 13, bitAt E f.val = true ∧ o = .errorFixed D f) ∧
    (weight E = 2 → o = .multipleErrorsDetected) ∧
    (weight E = 3 → (∀ D', o ≠ .ok D') ∧ ∀ D' f, o = .errorFixed D' f → D' ≠ D ∧ bitAt E f.val = false) ∧
    (weight E = 4 → (∀ D' f, o ≠ .errorFixed D' f) ∧ ∀ D', o = .ok D' → D' ≠ D)

/-- R87: how many three-bit and four-bit error patterns have each outcome, for every codeword. -/
def Obligations.TripleAndQuadrupleErrorCounts : Prop :=
  ∀ D : InfoVector,
    let patterns := fun k => (List.range 13).sublistsLen k
    let outcome := fun ps => decodeVector (flipAll (encodeVector D) ps)
    (patterns 3).length = 286 ∧ (patterns 4).length = 715 ∧
    ((patterns 3).countP fun ps => outcome ps == .multipleErrorsDetected) = 66 ∧
    ((patterns 3).countP fun ps => match outcome ps with
      | .errorFixed D' f => f == 12 && D' != D
      | _ => false) = 17 ∧
    ((patterns 3).countP fun ps => match outcome ps with
      | .errorFixed D' f => f != 12 && D' != D && !decide (f.val ∈ ps)
      | _ => false) = 203 ∧
    ((patterns 4).countP fun ps => match outcome ps with
      | .ok D' => D' != D
      | _ => false) = 55 ∧
    ((patterns 4).countP fun ps => outcome ps == .multipleErrorsDetected) = 660

/-! ### The environment -/

/-- R57, R103: FLIP changes exactly the listed positions and returns them in selection order; a list with a repeat or a
position past the end has no result (assumption 14). -/
def Obligations.FlipChangesExactlyListedPositions : Prop :=
  ∀ (n : Nat) (V : BitVec n) (ps : List Nat),
    (flipListWf n ps = true → ∃ V', injectFaults V ps = some (V', ps) ∧
      ∀ i, i < n → (bitAt V' i ≠ bitAt V i ↔ i ∈ ps)) ∧
    (flipListWf n ps = false → injectFaults V ps = none)

/-- R103: flipping listed distinct positions is XOR with a mask of that weight. -/
def Obligations.FlipIsChannelWithMask : Prop :=
  ∀ (C : CodeVector) (ps : List Nat), flipListWf 13 ps = true →
    flipAll C ps = channel C (flipAll 0#13 ps) ∧ weight (flipAll 0#13 ps) = ps.length

/-- R56, R57: the script of a corrected single-bit error runs to its end for every byte, position and start state. -/
def Obligations.SingleErrorScriptRuns : Prop :=
  ∀ (b : Byte) (f : Fin 13) (s : State), ∃ σ,
    runScript
      [.fromByte "d" b, .encode "c" (.name "d"), .syndrome "m" (.name "c"), .expect "m" (.mismatch []),
       .flip "r" (.name "c") [f.val], .decode "o" (.name "r"), .toByte "b" (.infoOf "o"),
       .expect "o" (.outcome (.errorFixed b f)), .expect "b" (.byte b)] ⟨s, []⟩ = .ok σ ∧
    σ.machine.pending = s.pending ∧ State.SamePorts .pgIn s σ.machine
end

