-- ==== Sys2Proof/Laws/Bits.lean ====
section
/-! SUPPORT. What single-bit reads give after single-bit writes, and the vector constructor on a vector's own bits. -/

namespace Sys2Proof.Machine

theorem eq_of_bitAt_eq {n : Nat} {V W : BitVec n} (h : ∀ i < n, bitAt V i = bitAt W i) : V = W :=
  BitVec.eq_of_getMsbD_eq h

theorem bitAt_of_ge {n : Nat} (V : BitVec n) {i : Nat} (h : n ≤ i) : bitAt V i = false := by
  simp [bitAt, BitVec.getMsbD_eq_getLsbD, Nat.not_lt.mpr h]

/-- A write inside the vector changes that one index and no other. -/
theorem bitAt_setBit {n : Nat} (V : BitVec n) {i : Nat} (hi : i < n) (b : Bool) (j : Nat) :
    bitAt (setBit V i b) j = if j = i then b else bitAt V j := by
  by_cases hj : j < n
  · have hm : (BitVec.twoPow n (n - 1 - i)).getMsbD j = decide (j = i) := by
      rw [BitVec.getMsbD_twoPow, Bool.eq_iff_iff]
      simp only [Bool.and_eq_true, decide_eq_true_eq]
      omega
    unfold setBit bitAt
    rw [if_pos hi]
    by_cases h : j = i
    · subst h
      cases b <;> simp [BitVec.getMsbD_or, BitVec.getMsbD_and, BitVec.getMsbD_not, hm]
    · cases b <;> simp [BitVec.getMsbD_or, BitVec.getMsbD_and, BitVec.getMsbD_not, hm, h, hj]
  · have : j ≠ i := by omega
    simp [bitAt_of_ge _ (Nat.not_lt.mp hj), this]

theorem bitAt_flipBit {n : Nat} (V : BitVec n) {i : Nat} (hi : i < n) (j : Nat) :
    bitAt (flipBit V i) j = if j = i then !bitAt V i else bitAt V j :=
  bitAt_setBit V hi _ j

theorem bitAt_xor {n : Nat} (V W : BitVec n) (i : Nat) : bitAt (V ^^^ W) i = (bitAt V i ^^ bitAt W i) := by
  simp [bitAt, BitVec.getMsbD_xor]

theorem bitAt_zero (n i : Nat) : bitAt (0#n) i = false := by
  simp [bitAt]

@[simp] theorem length_toBits {n : Nat} (V : BitVec n) : (toBits V).length = n := by
  simp [toBits]

theorem toBits_injective {n : Nat} {V W : BitVec n} (h : toBits V = toBits W) : V = W := by
  refine eq_of_bitAt_eq fun i hi => ?_
  have hi' := congrArg (fun l => l[i]?) h
  simpa [toBits, hi] using hi'

@[simp] theorem bitsValue_nil : bitsValue [] = 0 := rfl

@[simp] theorem bitsValue_cons (b : Bool) (bs : List Bool) :
    bitsValue (b :: bs) = b.toNat * 2 ^ bs.length + bitsValue bs := rfl

/-- A bit sequence's value fits its length. -/
theorem bitsValue_lt (bs : List Bool) : bitsValue bs < 2 ^ bs.length := by
  induction bs with
  | nil => simp
  | cons b bs ih => cases b <;> simp [Nat.pow_succ] <;> omega

end Sys2Proof.Machine
end

