-- ==== Sys2Proof/Laws/PerInstr.lean ====
section
/-! SUPPORT. Statements made for every instruction, one lemma per constructor. -/

namespace Sys2Proof.Laws

/-- The stimulus that performs an operation has its port's length (R35, R36). -/
def EncodeWellFormed.Statement (i : Instr) : Prop :=
  (Sys2Proof.encode i).wf = true

theorem EncodeWellFormed.encode (D : InfoVector) : EncodeWellFormed.Statement (.encode D) := by
  simp [Statement, Sys2Proof.encode, Drive.wf, Machine.portWidth]

theorem EncodeWellFormed.decode (C : CodeVector) : EncodeWellFormed.Statement (.decode C) := by
  simp [Statement, Sys2Proof.encode, Drive.wf, Machine.portWidth]

theorem EncodeWellFormed.pargen (V : CodeVector) : EncodeWellFormed.Statement (.pargen V) := by
  simp [Statement, Sys2Proof.encode, Drive.wf, Machine.portWidth]

theorem EncodeWellFormed.syndrome (R : CodeVector) : EncodeWellFormed.Statement (.syndrome R) := by
  simp [Statement, Sys2Proof.encode, Drive.wf, Machine.portWidth]

end Sys2Proof.Laws
end

