-- ==== Sys2Proof/Laws/State.lean ====
section
/-! SUPPORT. One lemma per field per update of the state: no later proof unfolds a record update. -/

namespace Sys2Proof.Machine

@[simp] theorem State.putEnc_enc (s : State) (D : InfoVector) (C : CodeVector) : (s.putEnc D C).enc = some ⟨D, C⟩ := rfl
@[simp] theorem State.putEnc_dec (s : State) (D : InfoVector) (C : CodeVector) : (s.putEnc D C).dec = s.dec := rfl
@[simp] theorem State.putEnc_pg (s : State) (D : InfoVector) (C : CodeVector) : (s.putEnc D C).pg = s.pg := rfl
@[simp] theorem State.putEnc_syn (s : State) (D : InfoVector) (C : CodeVector) : (s.putEnc D C).syn = s.syn := rfl
@[simp] theorem State.putEnc_pending (s : State) (D : InfoVector) (C : CodeVector) : (s.putEnc D C).pending = s.pending := rfl

@[simp] theorem State.putDec_enc (s : State) (p : DecPorts) : (s.putDec p).enc = s.enc := rfl
@[simp] theorem State.putDec_dec (s : State) (p : DecPorts) : (s.putDec p).dec = some p := rfl
@[simp] theorem State.putDec_pg (s : State) (p : DecPorts) : (s.putDec p).pg = s.pg := rfl
@[simp] theorem State.putDec_syn (s : State) (p : DecPorts) : (s.putDec p).syn = s.syn := rfl
@[simp] theorem State.putDec_pending (s : State) (p : DecPorts) : (s.putDec p).pending = s.pending := rfl

@[simp] theorem State.putPargen_enc (s : State) (V W : CodeVector) : (s.putPargen V W).enc = s.enc := rfl
@[simp] theorem State.putPargen_dec (s : State) (V W : CodeVector) : (s.putPargen V W).dec = s.dec := rfl
@[simp] theorem State.putPargen_pg (s : State) (V W : CodeVector) : (s.putPargen V W).pg = some ⟨V, W⟩ := rfl
@[simp] theorem State.putPargen_syn (s : State) (V W : CodeVector) : (s.putPargen V W).syn = s.syn := rfl
@[simp] theorem State.putPargen_pending (s : State) (V W : CodeVector) : (s.putPargen V W).pending = s.pending := rfl

@[simp] theorem State.putSyndrome_enc (s : State) (R : CodeVector) (m : BitVec 5) : (s.putSyndrome R m).enc = s.enc := rfl
@[simp] theorem State.putSyndrome_dec (s : State) (R : CodeVector) (m : BitVec 5) : (s.putSyndrome R m).dec = s.dec := rfl
@[simp] theorem State.putSyndrome_pg (s : State) (R : CodeVector) (m : BitVec 5) : (s.putSyndrome R m).pg = s.pg := rfl
@[simp] theorem State.putSyndrome_syn (s : State) (R : CodeVector) (m : BitVec 5) : (s.putSyndrome R m).syn = some ⟨R, m⟩ := rfl
@[simp] theorem State.putSyndrome_pending (s : State) (R : CodeVector) (m : BitVec 5) : (s.putSyndrome R m).pending = s.pending := rfl

@[simp] theorem State.setPending_enc (s : State) (ds : List Drive) : (s.setPending ds).enc = s.enc := rfl
@[simp] theorem State.setPending_dec (s : State) (ds : List Drive) : (s.setPending ds).dec = s.dec := rfl
@[simp] theorem State.setPending_pg (s : State) (ds : List Drive) : (s.setPending ds).pg = s.pg := rfl
@[simp] theorem State.setPending_syn (s : State) (ds : List Drive) : (s.setPending ds).syn = s.syn := rfl
@[simp] theorem State.setPending_pending (s : State) (ds : List Drive) : (s.setPending ds).pending = ds := rfl

@[simp] theorem State.setPending_setPending (s : State) (ds es : List Drive) :
    (s.setPending ds).setPending es = s.setPending es := rfl

@[simp] theorem State.setPending_self (s : State) : s.setPending s.pending = s := rfl

@[simp] theorem State.reset_enc : State.reset.enc = none := rfl
@[simp] theorem State.reset_dec : State.reset.dec = none := rfl
@[simp] theorem State.reset_pg : State.reset.pg = none := rfl
@[simp] theorem State.reset_syn : State.reset.syn = none := rfl
@[simp] theorem State.reset_pending : State.reset.pending = [] := rfl

end Sys2Proof.Machine
end

