-- ==== Sys2Proof/Laws/Step.lean ====
section
/-! SUPPORT. What exec and step can answer, said once. -/

namespace Sys2Proof.Machine

theorem exec_encode (D : InfoVector) (s : State) : exec (.encode D) s = .next (s.putEnc D (encodeVector D)) := rfl

theorem exec_decode (R : CodeVector) (s : State) :
    exec (.decode R) s = .next (s.putDec (outcomePorts R (decodeVector R))) := rfl

theorem exec_pargen (V : CodeVector) (s : State) : exec (.pargen V) s = .next (s.putPargen V (parityGenerate V)) := rfl

theorem exec_syndrome (R : CodeVector) (s : State) :
    exec (.syndrome R) s = .next (s.putSyndrome R (packMismatch (mismatchSet R))) := rfl

/-- All that an operation can do: it writes the ports of its own unit. -/
theorem exec_cases {i : Instr} {s t : State} (h : exec i s = .next t) :
    (∃ D, i = .encode D ∧ t = s.putEnc D (encodeVector D)) ∨
    (∃ R, i = .decode R ∧ t = s.putDec (outcomePorts R (decodeVector R))) ∨
    (∃ V, i = .pargen V ∧ t = s.putPargen V (parityGenerate V)) ∨
    (∃ R, i = .syndrome R ∧ t = s.putSyndrome R (packMismatch (mismatchSet R))) := by
  cases i with
  | encode D => exact .inl ⟨D, rfl, by simpa [exec_encode] using h.symm⟩
  | decode R => exact .inr (.inl ⟨R, rfl, by simpa [exec_decode] using h.symm⟩)
  | pargen V => exact .inr (.inr (.inl ⟨V, rfl, by simpa [exec_pargen] using h.symm⟩))
  | syndrome R => exact .inr (.inr (.inr ⟨R, rfl, by simpa [exec_syndrome] using h.symm⟩))

/-- A step that answers a next state idles, or runs the operation the oldest pending drive decodes to. -/
theorem step_cases {s t : State} (h : step s = .next t) :
    (s.pending = [] ∧ t = s) ∨
    (∃ d ds i, s.pending = d :: ds ∧ decode d = .ok i ∧ exec i (s.setPending ds) = .next t) := by
  unfold step at h
  split at h
  next hp => exact .inl ⟨hp, by simpa using h.symm⟩
  next d ds hp =>
    split at h
    next i hi => exact .inr ⟨d, ds, i, hp, hi, h⟩
    next => cases h

/-- A run of one more step steps first. -/
theorem core_run_succ (n : Nat) (s t : State) (h : step s = .next t) :
    Host.Core.run core (n + 1) s = Host.Core.run core n t := by
  have h' : core.step s = .next t := h
  simp only [Host.Core.run]
  rw [h']

end Sys2Proof.Machine
end

