-- ==== Sys2Proof/Laws/Units.lean ====
section
/-! SUPPORT. One lemma per shared function of the units: every bit of its result, and the mismatch set as a concatenation of five
conditional members. Later proofs cite these and unfold no fold, filter or working copy. -/

namespace Sys2Proof.Machine

theorem xorAt_nil {n : Nat} (V : BitVec n) : xorAt V [] = false := rfl

theorem xorAt_append_singleton {n : Nat} (V : BitVec n) (ps : List Nat) (i : Nat) :
    xorAt V (ps ++ [i]) = (xorAt V ps ^^ bitAt V i) := by
  simp [xorAt]

/-- The XOR over positions is linear: it is all the arithmetic of the block (R63). -/
theorem xorAt_xor {n : Nat} (V W : BitVec n) (ps : List Nat) : xorAt (V ^^^ W) ps = (xorAt V ps ^^ xorAt W ps) := by
  induction ps using List.reverseRecOn with
  | nil => rfl
  | append_singleton l i ih =>
    rw [xorAt_append_singleton, xorAt_append_singleton, xorAt_append_singleton, ih, bitAt_xor]
    cases xorAt V l <;> cases xorAt W l <;> cases bitAt V i <;> cases bitAt W i <;> rfl

/-- R58, written out. -/
theorem checks_eq (V : CodeVector) :
    checks V =
      ⟨bitAt V 2 ^^ bitAt V 4 ^^ bitAt V 6 ^^ bitAt V 8 ^^ bitAt V 10,
       bitAt V 2 ^^ bitAt V 5 ^^ bitAt V 6 ^^ bitAt V 9 ^^ bitAt V 10,
       bitAt V 4 ^^ bitAt V 5 ^^ bitAt V 6 ^^ bitAt V 11,
       bitAt V 8 ^^ bitAt V 9 ^^ bitAt V 10 ^^ bitAt V 11⟩ := by
  simp [checks, xorAt, cover0, cover1, cover3, cover7]

/-- R59, written out. -/
theorem spanParity_eq (V : CodeVector) :
    spanParity V =
      (bitAt V 0 ^^ bitAt V 1 ^^ bitAt V 2 ^^ bitAt V 3 ^^ bitAt V 4 ^^ bitAt V 5 ^^ bitAt V 6 ^^ bitAt V 7 ^^
        bitAt V 8 ^^ bitAt V 9 ^^ bitAt V 10 ^^ bitAt V 11) := by
  simp [spanParity, xorAt, List.range, List.range.loop]

/-- The overall parity is the span parity and the checksum bit. -/
theorem overallParity_eq (V : CodeVector) : overallParity V = (spanParity V ^^ bitAt V 12) := by
  simp [overallParity, spanParity, List.range_succ, xorAt]

/-- R47, one index at a time. -/
theorem bitAt_place (D : InfoVector) (i : Nat) :
    bitAt (place D) i =
      if i = 11 then bitAt D 7 else if i = 10 then bitAt D 6 else if i = 9 then bitAt D 5 else
      if i = 8 then bitAt D 4 else if i = 6 then bitAt D 3 else if i = 5 then bitAt D 2 else
      if i = 4 then bitAt D 1 else if i = 2 then bitAt D 0 else false := by
  simp [place, infoPos, bitAt_setBit, bitAt_zero]

/-- R48, one index at a time. -/
theorem bitAt_extract (C : CodeVector) (k : Nat) :
    bitAt (extract C) k =
      if k = 7 then bitAt C 11 else if k = 6 then bitAt C 10 else if k = 5 then bitAt C 9 else
      if k = 4 then bitAt C 8 else if k = 3 then bitAt C 6 else if k = 2 then bitAt C 5 else
      if k = 1 then bitAt C 4 else if k = 0 then bitAt C 2 else false := by
  simp [extract, infoPos, bitAt_setBit, bitAt_zero]

/-- The four check positions receive the check bits, every other index is kept. -/
theorem bitAt_writeChecks (V : CodeVector) (K : CheckBits) (i : Nat) :
    bitAt (writeChecks V K) i =
      if i = 7 then K.k7 else if i = 3 then K.k3 else if i = 1 then K.k1 else if i = 0 then K.k0 else bitAt V i := by
  simp [writeChecks, bitAt_setBit]

/-- R60: the check bits, the checksum over the copy that holds them, and the information positions kept. -/
theorem bitAt_parityGenerate (V : CodeVector) (i : Nat) :
    bitAt (parityGenerate V) i =
      if i = 12 then
        (bitAt V 2 ^^ bitAt V 4 ^^ bitAt V 5 ^^ bitAt V 8 ^^ bitAt V 9 ^^ bitAt V 11)
      else bitAt (writeChecks V (checks V)) i := by
  have h : spanParity (writeChecks V (checks V)) =
      (bitAt V 2 ^^ bitAt V 4 ^^ bitAt V 5 ^^ bitAt V 8 ^^ bitAt V 9 ^^ bitAt V 11) := by
    simp only [spanParity_eq, bitAt_writeChecks, checks_eq, reduceIte, Nat.reduceEqDiff]
    cases bitAt V 2 <;> cases bitAt V 4 <;> cases bitAt V 5 <;> cases bitAt V 6 <;> cases bitAt V 8 <;>
      cases bitAt V 9 <;> cases bitAt V 10 <;> cases bitAt V 11 <;> rfl
  simp [parityGenerate, checksumPos, bitAt_setBit, h]

/-- R68: the check bits and the span parity of the received vector, the information positions kept. -/
theorem bitAt_recompute (R : CodeVector) (i : Nat) :
    bitAt (recompute R) i = if i = 12 then spanParity R else bitAt (writeChecks R (checks R)) i := by
  simp [recompute, checksumPos, bitAt_setBit]

/-- R69, R70, R71: a position is listed exactly when its own test fails, in rising order. -/
theorem mismatchSet_eq (R : CodeVector) :
    mismatchSet R =
      (if bitAt R 0 ^^ (checks R).k0 then [0] else []) ++ (if bitAt R 1 ^^ (checks R).k1 then [1] else []) ++
      (if bitAt R 3 ^^ (checks R).k3 then [3] else []) ++ (if bitAt R 7 ^^ (checks R).k7 then [7] else []) ++
      (if bitAt R 12 ^^ spanParity R then [12] else []) := by
  have hr : List.range 13 = [0, 1, 2, 3, 4, 5, 6, 7, 8, 9, 10, 11, 12] := rfl
  simp only [mismatchSet, disagreements, hr, List.filter_cons, bitAt_recompute, bitAt_writeChecks, reduceIte,
    Nat.reduceEqDiff, bne_self_eq_false, Bool.false_eq_true, List.filter_nil]
  cases bitAt R 0 <;> cases bitAt R 1 <;> cases bitAt R 3 <;> cases bitAt R 7 <;> cases bitAt R 12 <;>
    cases (checks R).k0 <;> cases (checks R).k1 <;> cases (checks R).k3 <;> cases (checks R).k7 <;>
    cases spanParity R <;> rfl

/-- The other reading of step 1 (R75) differs from the mismatch set at position 12 alone. -/
theorem disagreements_parityGenerate_eq (R : CodeVector) :
    (disagreements R (parityGenerate R)).filter (· != checksumPos) = (mismatchSet R).filter (· != checksumPos) := by
  simp only [mismatchSet, disagreements, List.filter_filter]
  refine List.filter_congr fun i _ => ?_
  by_cases h : i = 12
  · simp [h, checksumPos]
  · simp [bitAt_parityGenerate, bitAt_recompute, h]

/-- Step 8 of R76 is a test of the overall parity: one flip inverts it (R81, R84). -/
theorem overallParity_flipBit (R : CodeVector) {f : Nat} (hf : f < 13) :
    overallParity (flipBit R f) = !overallParity R := by
  simp only [overallParity_eq, spanParity_eq, bitAt_flipBit R hf]
  interval_cases f <;> simp

/-- Steps 7 and 8 of R76 correct exactly under odd overall parity (R81). -/
theorem correctAt_eq (R : CodeVector) (f : Fin 13) :
    correctAt R f = if overallParity R then .errorFixed (extract (flipBit R f.val)) f else .multipleErrorsDetected := by
  have h := overallParity_flipBit R f.isLt
  rw [overallParity_eq] at h
  have h2 : (spanParity (flipBit R f.val) != bitAt (flipBit R f.val) checksumPos) = !overallParity R := by
    rw [← h]; rfl
  simp only [correctAt, h2]
  cases overallParity R <;> rfl

/-- A consumer reads back from the ports the outcome that was put there, whatever the unspecified bits are (R51). -/
theorem readOutcome_outcomePorts (R : CodeVector) (o : DecodeOutcome) : readOutcome (outcomePorts R o) = some o := by
  cases o with
  | ok => rfl
  | multipleErrorsDetected => rfl
  | errorFixed D f =>
    have : (BitVec.ofNat 4 f.val).toNat = f.val := by
      have := f.isLt
      simp only [BitVec.toNat_ofNat]; omega
    simp [readOutcome, outcomePorts, this]

end Sys2Proof.Machine
end

