-- ==== Sys2Proof/Tests/Slice0.lean ====
section
/-! SUPPORT. Tests: the expected results come from spec/95_test_vectors.md and the rules' worked examples; and one witness
theorem for every statement that has hypotheses. -/

namespace Sys2Proof.Tests

open Sys2Proof.Machine

/-- The next state, if there is one. -/
def nextOf (o : Host.Outcome State Fault Refusal) : Option State :=
  match o with
  | .next s => some s
  | .fault _ => none
  | .refused _ => none

/-! ### Well-formedness: an ill-formed term for each check -/

theorem test_wf_enc_short : Drive.wf ⟨.encInfo, [true, false]⟩ = false := by decide
theorem test_wf_dec_byte : Drive.wf ⟨.decCode, List.replicate 8 true⟩ = false := by decide
theorem test_wf_pg_long : Drive.wf ⟨.pgIn, List.replicate 14 false⟩ = false := by decide
theorem test_wf_syn_empty : Drive.wf ⟨.synCode, []⟩ = false := by decide
theorem test_wf_drives :
    Drive.wf ⟨.encInfo, List.replicate 8 true⟩ = true ∧ Drive.wf ⟨.synCode, List.replicate 13 true⟩ = true := by decide
theorem test_wf_flip_repeat : flipListWf 13 [3, 4, 3] = false := by decide
theorem test_wf_flip_past_end : flipListWf 13 [13] = false := by decide
theorem test_wf_flip : flipListWf 13 [12, 0] = true := by decide

/-! ### Decoding, bits written out from R42 and R45 -/

/-- S-A: the byte 0b01110111, index 0 first. -/
theorem test_decode_encode_drive :
    decode ⟨.encInfo, [false, true, true, true, false, true, true, true]⟩ = .ok (.encode 0b01110111#8) := by decide
/-- S-B: 1000011101110 is bus word 0x10EE. -/
theorem test_decode_decode_drive :
    decode ⟨.decCode, [true, false, false, false, false, true, true, true, false, true, true, true, false]⟩
      = .ok (.decode 0x10EE#13) := by decide
/-- Section 3: pg_in 0000111001110 is 0x01CE. -/
theorem test_decode_pargen_drive :
    decode ⟨.pgIn, [false, false, false, false, true, true, true, false, false, true, true, true, false]⟩
      = .ok (.pargen 0x01CE#13) := by decide
/-- Section 3: syn_code 1001011101110 is 0x12EE. -/
theorem test_decode_syndrome_drive :
    decode ⟨.synCode, [true, false, false, true, false, true, true, true, false, true, true, true, false]⟩
      = .ok (.syndrome 0x12EE#13) := by decide
theorem test_decode_wrong_length : decode ⟨.decCode, [true]⟩ = .error ⟨13, 1⟩ := by decide
theorem test_table_words :
    decodeTableWord 8 0x77 = some (.encode 0x77#8) ∧ decodeTableWord 16 0x10EE = some (.decode 0x10EE#13) ∧
    decodeTableWord 16 0x2000 = none ∧ decodeTableWord 24 0 = none := by decide

/-! ### One step of each operation -/

/-- ENCODE 0xA5 = 1110010001010 (section 2). -/
theorem test_encode_a5 : (nextOf (exec (.encode 0xA5#8) .reset)).bind State.enc = some ⟨0xA5#8, 0x1C8A#13⟩ := by decide
/-- Section 6: the checksum covers the check bits too. -/
theorem test_encode_80 : (nextOf (exec (.encode 0x80#8) .reset)).bind State.enc = some ⟨0x80#8, 0x1C01#13⟩ := by decide
/-- Section 3, row 5: the check positions of pg_in are ignored. -/
theorem test_pargen_1b21 :
    (nextOf (exec (.pargen 0x1B21#13) .reset)).bind State.pg = some ⟨0x1B21#13, 0x1301#13⟩ := by decide
/-- Section 3: all ones. -/
theorem test_pargen_ones :
    (nextOf (exec (.pargen 0x1FFF#13) .reset)).bind State.pg = some ⟨0x1FFF#13, 0x1DDE#13⟩ := by decide
/-- Section 6: the checksum is recomputed over the received span, so the set is {0}, not {0,12}. -/
theorem test_syndrome_12ee :
    (nextOf (exec (.syndrome 0x12EE#13) .reset)).bind State.syn = some ⟨0x12EE#13, 0b00001#5⟩ := by decide
/-- Section 3: {0,1,3,7,12}. -/
theorem test_syndrome_1234 :
    (nextOf (exec (.syndrome 0x1234#13) .reset)).bind State.syn = some ⟨0x1234#13, 0b11111#5⟩ := by decide
/-- Section 6 (C1): the literal reading of step 8 would reject 1110100000001. -/
theorem test_decode_step8 :
    (((nextOf (exec (.decode 0b1110100000001#13) .reset)).bind State.dec).bind readOutcome)
      = some (.errorFixed 0b10000000#8 4) := by decide
/-- Section 6: flip_index 12 is rejected at step 6. -/
theorem test_decode_flip_index_12 :
    (((nextOf (exec (.decode 0x0FFF#13) .reset)).bind State.dec).bind readOutcome)
      = some .multipleErrorsDetected := by decide

/-! ### Vectors, channel and script -/

theorem test_from_byte : toBits (fromByte 0xA5) = [true, false, true, false, false, true, false, true] := by decide
theorem test_place : place 0b10000000#8 = 0b0010000000000#13 := by decide
theorem test_extract_check_positions : extract 0b1101000100001#13 = 0#8 := by decide
theorem test_render : render 0x11EE#13 = "1000111101110" := by decide
theorem test_parse_not_a_bit : parseText 8 "0111 111" = .error (.notABit "0111 111") := by decide
/-- Section 5, program 2: FLIP c, position 5. -/
theorem test_flip : injectFaults 0x1C8A#13 [5] = some (0x1C0A#13, [5]) := by decide
/-- Section 5, program 2, the last line's result as R56 writes it. -/
theorem test_render_outcome :
    renderValue (.outcome (decodeVector 0x1C0A#13)) = "ErrorFixed 10100101 5" := by decide
/-- The to_byte table writes the byte of 10100101 as 0xA5 (the form of a result: assumption 18). -/
theorem test_render_byte : renderValue (.byte (BitVec.ofNat 8 (toByte 0b10100101#8))) = "0xA5" := by decide
/-- Section 5, program 5: PARGEN as a re-encoder. -/
theorem test_script_pargen :
    ((runScript [.pargen "q" (.text "1001011101110"), .expect "q" (.code 0x02EF#13)] ⟨.reset, []⟩).toOption.map
      ScriptState.names) = some [("q", .code 0x02EF#13)] := by decide
theorem test_script_expect_fails :
    (runScript [.fromByte "d" 0x77#8, .expect "d" (.info 0x78#8)] ⟨.reset, []⟩).toOption = none := by decide

/-! ### Witnesses: every statement's hypotheses are met together -/

/-- A small state with all four units driven and one drive pending, built from the operations. -/
def driven : State :=
  ((((State.reset.putEnc 0x77#8 (encodeVector 0x77#8)).putDec (outcomePorts 0x10EE#13 (decodeVector 0x10EE#13))).putPargen
    0x1B21#13 (parityGenerate 0x1B21#13)).putSyndrome 0x11EE#13 (packMismatch (mismatchSet 0x11EE#13))).setPending
    [⟨.encInfo, [false, true, true, true, false, true, true, true]⟩]

theorem witness_StepRunsDecodedInstruction :
    driven.pending = [⟨.encInfo, [false, true, true, true, false, true, true, true]⟩] ∧
    decode ⟨.encInfo, [false, true, true, true, false, true, true, true]⟩ = .ok (.encode 0x77#8) := by
  exact ⟨rfl, by decide⟩

theorem witness_StepIdlesWithNothingPending : State.reset.pending = [] := rfl

theorem witness_StepRefusesWrongLengthDrive :
    (State.reset.setPending [⟨.decCode, [true]⟩]).pending = [⟨.decCode, [true]⟩] ∧ [true].length ≠ portWidth .decCode := by
  decide

theorem witness_OperationTouchesOnlyItsUnit : Port.decCode ≠ instrPort (.encode 0#8) := by decide

theorem witness_DifferentUnitsCommute : instrPort (.decode 0#13) ≠ instrPort (.syndrome 0#13) := by decide

theorem witness_StepKeepsPortsOk : driven.PortsOk ∧ ∃ t, step driven = .next t := by
  refine ⟨⟨?_, ?_, ?_, ?_⟩, _, rfl⟩ <;> intro p h <;> cases h <;> rfl

theorem witness_StepKeepsPortsLawful : driven.PortsLawful ∧ ∃ t, step driven = .next t := by
  refine ⟨⟨?_, ?_, ?_, ?_⟩, _, rfl⟩ <;> intro p h <;> cases h
  · exact ⟨rfl, by decide, by decide⟩
  · exact ⟨by decide, fun h => absurd h (by decide), fun _ => ⟨by decide, by decide⟩, fun h => absurd h (by decide)⟩
  · exact ⟨by decide, by decide⟩
  · exact ⟨⟨fun _ => ⟨0x77#8, by decide⟩, fun _ => by decide⟩, by decide⟩

theorem witness_SafeStateRunsForEver : driven.Safe := by
  refine ⟨witness_StepKeepsPortsOk.1, fun d hd => ?_⟩
  cases hd with
  | head => decide
  | tail _ h => cases h

/-- A safe state with a drive pending, and one with none. -/
theorem witness_StepKeepsSafe : driven.Safe ∧ (driven.setPending []).Safe :=
  ⟨witness_SafeStateRunsForEver, witness_StepKeepsPortsOk.1, fun _ hd => nomatch hd⟩

/-- Drives to two units, the encoder driven before and after the other. -/
def twoToEncoder : List Drive := [encode (.encode 0x77#8), encode (.syndrome 0x11EE#13), encode (.encode 0x80#8)]

/-- A unit driven twice (its last drive is the later of its two), a unit driven once, and one not driven. -/
theorem witness_RunLeavesLastDriveOfEachUnit :
    (∀ d ∈ twoToEncoder, d.wf = true) ∧ lastDrive .encInfo twoToEncoder = some (encode (.encode 0x80#8)) ∧
    lastDrive .synCode twoToEncoder = some (encode (.syndrome 0x11EE#13)) ∧ lastDrive .decCode twoToEncoder = none := by
  decide

theorem witness_EncodeOfDecode : decode ⟨.synCode, List.replicate 13 true⟩ = .ok (.syndrome 0x1FFF#13) := by decide

theorem witness_TableWordIsTheNextStep :
    decodeTableWord 8 0xFF = some (.encode 0xFF#8) ∧ decodeTableWord 16 0x1FFF = some (.decode 0x1FFF#13) := by decide

theorem witness_VectorConstructorKeepsBits : [true, false].length = 2 ∧ [true, false].length ≠ 3 := by decide

theorem witness_PlaceAndExtract :
    (∀ i ∈ [2, 4, 5, 6, 8, 9, 10, 11], bitAt 0#13 i = bitAt 0b1101000100001#13 i) ∧ 0#13 ≠ 0b1101000100001#13 := by decide

theorem witness_CodeVectorBusNumbering : 0 < 13 ∧ 12 < 13 := by decide

theorem witness_ByteConversionLossless : 0 < 256 ∧ 255 < 256 := by decide

theorem witness_SingleErrorsCorrected : 0 < 256 ∧ 255 < 256 := by decide

theorem witness_MismatchSetDependsOnErrorAlone : 0 < 12 ∧ 11 < 12 := by decide

theorem witness_CodewordWeightsAndDistance : (0#8 : InfoVector) ≠ 0xFF#8 := by decide

theorem witness_PargenWritesCodeword :
    (∀ i ∈ [2, 4, 5, 6, 8, 9, 10, 11], bitAt 0x1B21#13 i = bitAt 0x0100#13 i) ∧ 0x1B21#13 ≠ 0x0100#13 := by decide

theorem witness_FromByteBits : 255 < 256 ∧ 7 < 8 := by decide

theorem witness_EncodeTotalAndInjective : (0x77#8 : InfoVector) ≠ 0x78#8 := by decide

theorem witness_ValidCodewordsAreLinearCode : ValidCodeword 0x11EE#13 := ⟨0x77#8, by decide⟩

theorem witness_CoverListsAreHammingSubsets : [cover0, cover1, cover3, cover7][3]? = some cover7 := by decide

theorem witness_FlipIndexIsSyndromeLessOne :
    (mismatchSet 0x1A20#13).filter (· != 12) ≠ [] ∧ syndromeNumber 0x1A20#13 = 15 := by decide

theorem witness_ChecksumReadingsDecodeAlike : syndromeNumber 0x11EF#13 = 0 ∧ syndromeNumber 0x12EE#13 ≠ 0 := by decide

/-- One input for every clause, at the ends of the ranges (section 4.1). -/
theorem witness_DecodePortsByCase :
    (syndromeNumber 0x1C01#13 = 0 ∧ overallParity 0x1C01#13 = false) ∧
    (syndromeNumber 0x1C00#13 = 0 ∧ overallParity 0x1C00#13 = true) ∧
    (syndromeNumber 0x1000#13 = 1 ∧ overallParity 0x1000#13 = true) ∧
    (syndromeNumber 0x1FFF#13 = 12 ∧ overallParity 0x1FFF#13 = true) ∧
    (syndromeNumber 0x1FFE#13 = 12 ∧ overallParity 0x1FFE#13 = false) ∧
    (syndromeNumber 0x0FFF#13 = 13 ∧ overallParity 0x0FFF#13 = false) ∧
    (syndromeNumber 0x1A21#13 = 15 ∧ overallParity 0x1A21#13 = true) := by decide

/-- One input for every row of R84's table, at the ends of its ranges of s. -/
theorem witness_DecodeClosedForm :
    (syndromeNumber 0x1C01#13 = 0 ∧ overallParity 0x1C01#13 = false) ∧
    (syndromeNumber 0x1C00#13 = 0 ∧ overallParity 0x1C00#13 = true) ∧
    (syndromeNumber 0x1FFF#13 = 12 ∧ overallParity 0x1FFF#13 = true) ∧
    (syndromeNumber 0x1FFE#13 = 12 ∧ overallParity 0x1FFE#13 = false) ∧
    (syndromeNumber 0x0FFF#13 = 13 ∧ overallParity 0x0FFF#13 = false) ∧
    (syndromeNumber 0x0FFE#13 = 13 ∧ overallParity 0x0FFE#13 = true) := by decide

theorem witness_PositionTwelveOnlyForLoneChecksum : mismatchSet 0x11EF#13 = [12] := by decide

theorem witness_ReportedPositionIsCorrectedBit :
    readOutcome (outcomePorts 0x10EE#13 (decodeVector 0x10EE#13)) = some (.errorFixed 0x77#8 4) ∧
    infoPos[1]? = some (4 : Fin 13).val ∧
    readOutcome (outcomePorts 0x11EF#13 (decodeVector 0x11EF#13)) = some (.errorFixed 0x77#8 12) := by decide

theorem witness_DoubleErrorsDetected : 0 < 13 ∧ 12 < 13 ∧ 0 ≠ 12 := by decide

theorem witness_CodewordThroughChannel :
    weight 0#13 = 0 ∧ weight 0x1000#13 = 1 ∧ weight 0x1001#13 = 2 ∧ weight 0x1C00#13 = 3 ∧ weight 0x0223#13 = 4 := by
  decide

theorem witness_FlipChangesExactlyListedPositions : flipListWf 13 [12, 0] = true ∧ flipListWf 13 [13] = false := by decide

theorem witness_FlipIsChannelWithMask : flipListWf 13 [0, 1, 2] = true := by decide

end Sys2Proof.Tests
end

section
/-! PROOFS of the statements of spec/30_encoding.md: the laws they use, part by part, then the statements. -/

namespace Sys2Proof.Machine

/-! ### Numbering of bits and weighted sums (R42, R43, R44, R50) -/

/-- Document index `i` of an `n`-bit vector is bus bit `n - 1 - i` (R42, R50). -/
theorem bitAt_eq_getLsbD {n : Nat} (V : BitVec n) {i : Nat} (hi : i < n) : bitAt V i = V.getLsbD (n - 1 - i) := by
  simp [bitAt, BitVec.getMsbD_eq_getLsbD, hi]

/-- Bit `j` of a sequence's value is its `j`-th bit from the end. -/
theorem testBit_bitsValue (bs : List Bool) {j : Nat} (hj : j < bs.length) :
    (bitsValue bs).testBit j = bs[bs.length - 1 - j] := by
  induction bs with
  | nil => simp at hj
  | cons b bs ih =>
    rw [bitsValue_cons, Nat.mul_comm, Nat.testBit_two_pow_mul_add _ (bitsValue_lt bs)]
    by_cases h : j < bs.length
    · have hidx : (b :: bs).length - 1 - j = (bs.length - 1 - j) + 1 := by rw [List.length_cons]; omega
      simp only [h, if_true, ih, hidx, List.getElem_cons_succ]
    · obtain rfl : j = bs.length := by rw [List.length_cons] at hj; omega
      cases b <;> simp

/-- A vector's bits, read in index order as a binary numeral, are its bus value. -/
theorem bitsValue_toBits {n : Nat} (V : BitVec n) : bitsValue (toBits V) = V.toNat := by
  refine Nat.eq_of_testBit_eq fun j => ?_
  by_cases hj : j < n
  · have hidx : n - 1 - (n - 1 - j) = j := by omega
    rw [testBit_bitsValue _ (by simpa using hj)]
    simp [toBits, bitAt_eq_getLsbD V (show n - 1 - j < n by omega), hidx, BitVec.getLsbD]
  · have hpow : 2 ^ n ≤ 2 ^ j := Nat.pow_le_pow_right (by omega) (by omega)
    have hval : bitsValue (toBits V) < 2 ^ n := by simpa using bitsValue_lt (toBits V)
    rw [Nat.testBit_lt_two_pow (by omega), Nat.testBit_lt_two_pow (V.isLt.trans_le hpow)]

/-- A sequence given by index is worth the sum of its weighted bits. -/
theorem bitsValue_map_range (f : Nat → Bool) (n : Nat) :
    bitsValue ((List.range n).map f) = ((List.range n).map fun i => (f i).toNat * 2 ^ (n - 1 - i)).sum := by
  induction n generalizing f with
  | zero => rfl
  | succ n ih =>
    have hw : ∀ i, n + 1 - 1 - (i + 1) = n - 1 - i := by omega
    simp only [List.range_succ_eq_map, List.map_cons, List.map_map, bitsValue_cons, List.length_map, List.length_range,
      List.sum_cons, Function.comp_def, Nat.succ_eq_add_one, hw, ih fun i => f (i + 1)]
    rfl

/-- The weighted sum of R44 and R50, at every width. -/
theorem toNat_eq_weightedSum {n : Nat} (V : BitVec n) :
    V.toNat = ((List.range n).map fun i => (bitAt V i).toNat * 2 ^ (n - 1 - i)).sum := by
  rw [← bitsValue_toBits, toBits, bitsValue_map_range]

/-- The characters of the textual form stand for the vector's bits (R55). -/
theorem map_toList_render {n : Nat} (V : BitVec n) : (render V).toList.map (· == '1') = toBits V := by
  have hchar : ((· == '1') ∘ fun b : Bool => if b then '1' else '0') = id := by
    funext b; cases b <;> rfl
  simp [render, hchar]

/-- R43: `from_byte`'s bit `k` is the byte value's bit `7 - k`. -/
theorem bitAt_fromByte (b : Nat) {k : Nat} (hk : k < 8) : bitAt (fromByte b) k = b.testBit (7 - k) := by
  interval_cases k <;> simp [fromByte, List.range_succ, bitAt_setBit, Nat.testBit, Nat.one_and_eq_mod_two]

/-- R43: `from_byte` is the identity on the bus word. -/
theorem fromByte_eq_ofNat (b : Nat) : fromByte b = BitVec.ofNat 8 b := by
  refine eq_of_bitAt_eq fun k hk => ?_
  have hlt : 8 - 1 - k < 8 := by omega
  rw [bitAt_fromByte b hk, bitAt_eq_getLsbD _ hk, BitVec.getLsbD_ofNat, decide_eq_true hlt, Bool.true_and]

@[simp] theorem fromByte_toNat (b : Byte) : fromByte b.toNat = b := by
  rw [fromByte_eq_ofNat, BitVec.ofNat_toNat, BitVec.setWidth_eq]

/-- R44: `to_byte` is the value of the bus word. -/
theorem toByte_eq_toNat (D : InfoVector) : toByte D = D.toNat :=
  (toNat_eq_weightedSum D).symm

@[simp] theorem ofNat_toByte (D : InfoVector) : BitVec.ofNat 8 (toByte D) = D := by
  rw [toByte_eq_toNat, BitVec.ofNat_toNat, BitVec.setWidth_eq]

/-! ### Placement and extraction (R47, R48, R49) -/

/-- R48 reads back what R47 placed. -/
@[simp] theorem extract_place (D : InfoVector) : extract (place D) = D := by
  refine eq_of_bitAt_eq fun k hk => ?_
  interval_cases k <;> simp [bitAt_extract, bitAt_place]

/-- R49: `extract` depends on the information positions alone. -/
theorem extract_congr {C C' : CodeVector} (h : ∀ i ∈ infoPos, bitAt C i = bitAt C' i) : extract C = extract C' := by
  refine eq_of_bitAt_eq fun k _ => ?_
  simp only [infoPos, List.forall_mem_cons, List.not_mem_nil, false_imp_iff, implies_true, and_true] at h
  simp only [bitAt_extract, h]

/-! ### The mismatch set, its packing and its numbers (R52, R70, R71, R73) -/

theorem mem_mismatchSet {R : CodeVector} {i : Nat} :
    i ∈ mismatchSet R ↔ i < 13 ∧ bitAt R i ≠ bitAt (recompute R) i := by
  simp [mismatchSet, disagreements]

/-- R68: away from the five redundant positions the recomputed vector is the received one. -/
theorem bitAt_recompute_of_notMem (R : CodeVector) {i : Nat} (hi : i ∉ mismatchPos) :
    bitAt (recompute R) i = bitAt R i := by
  simp only [mismatchPos, List.mem_cons, List.not_mem_nil, or_false, not_or] at hi
  obtain ⟨h0, h1, h3, h7, h12⟩ := hi
  simp only [bitAt_recompute, bitAt_writeChecks, h0, h1, h3, h7, h12, if_false]

/-- R70: only the five redundant positions can mismatch. -/
theorem mem_mismatchPos_of_mem_mismatchSet {R : CodeVector} {i : Nat} (h : i ∈ mismatchSet R) : i ∈ mismatchPos := by
  by_contra hi
  exact (mem_mismatchSet.mp h).2 (bitAt_recompute_of_notMem R hi).symm

theorem zero_mem_mismatchSet (R : CodeVector) : 0 ∈ mismatchSet R ↔ (bitAt R 0 ^^ (checks R).k0) = true := by
  simp [mem_mismatchSet, bitAt_recompute, bitAt_writeChecks]

theorem one_mem_mismatchSet (R : CodeVector) : 1 ∈ mismatchSet R ↔ (bitAt R 1 ^^ (checks R).k1) = true := by
  simp [mem_mismatchSet, bitAt_recompute, bitAt_writeChecks]

theorem three_mem_mismatchSet (R : CodeVector) : 3 ∈ mismatchSet R ↔ (bitAt R 3 ^^ (checks R).k3) = true := by
  simp [mem_mismatchSet, bitAt_recompute, bitAt_writeChecks]

theorem seven_mem_mismatchSet (R : CodeVector) : 7 ∈ mismatchSet R ↔ (bitAt R 7 ^^ (checks R).k7) = true := by
  simp [mem_mismatchSet, bitAt_recompute, bitAt_writeChecks]

/-- R71: the checksum position mismatches exactly under odd overall parity. -/
theorem twelve_mem_mismatchSet (R : CodeVector) : 12 ∈ mismatchSet R ↔ overallParity R = true := by
  rw [overallParity_eq, Bool.xor_comm]
  simp [mem_mismatchSet, bitAt_recompute]

/-- One step of the packing sets its own bit when the test holds and no other bit. -/
theorem getLsbD_ite_or_twoPow {n : Nat} (c : Prop) [Decidable c] (w : BitVec n) {k : Nat} (hk : k < n) (b : Nat) :
    (if c then w ||| BitVec.twoPow n k else w).getLsbD b = (w.getLsbD b || (decide c && decide (b = k))) := by
  have hbk : decide (b = k) = decide (k = b) := by simp [eq_comm]
  split <;> simp [*, BitVec.getLsbD_twoPow]

/-- R52: bit `b` of the packed word says whether its position is in the set. -/
theorem getLsbD_packMismatch (M : List Nat) {b p : Nat} (h : mismatchPos[b]? = some p) :
    (packMismatch M).getLsbD b = decide (p ∈ M) := by
  have hb : b < 5 := (List.getElem?_eq_some_iff.mp h).1
  have hbits : (packMismatch M).getLsbD b =
      (decide (0 ∈ M) && decide (b = 0) || decide (1 ∈ M) && decide (b = 1) || decide (3 ∈ M) && decide (b = 2) ||
        decide (7 ∈ M) && decide (b = 3) || decide (12 ∈ M) && decide (b = 4)) := by
    simp [packMismatch, mismatchPos, getLsbD_ite_or_twoPow, -BitVec.zero_or]
  rw [hbits]
  interval_cases b <;> obtain rfl := Option.some.inj h <;> simp

/-- R52: the word stands for the set's members among the five positions, rising. -/
theorem unpackMismatch_packMismatch (M : List Nat) :
    unpackMismatch (packMismatch M) = mismatchPos.filter (· ∈ M) := by
  have hbit : ∀ pb ∈ mismatchPos.zipIdx, (packMismatch M).getLsbD pb.2 = decide (pb.1 ∈ M) := fun pb hpb =>
    getLsbD_packMismatch M (List.mem_zipIdx_iff_getElem?.mp hpb)
  have hzip : mismatchPos.zipIdx.map Prod.fst = mismatchPos := List.zipIdx_map_fst ..
  rw [unpackMismatch, List.filter_congr hbit]
  conv_rhs => rw [← hzip, List.filter_map]
  rfl

/-- R70: packing a mismatch set loses nothing. -/
theorem unpackMismatch_packMismatch_mismatchSet (R : CodeVector) :
    unpackMismatch (packMismatch (mismatchSet R)) = mismatchSet R := by
  have hpos : mismatchPos = (List.range 13).filter (· ∈ mismatchPos) := by decide
  rw [unpackMismatch_packMismatch, hpos, List.filter_filter]
  conv_rhs => rw [mismatchSet, disagreements]
  refine List.filter_congr fun i hi => ?_
  rw [Bool.eq_iff_iff]
  simp only [Bool.and_eq_true, decide_eq_true_eq, bne_iff_ne]
  exact ⟨fun h => (mem_mismatchSet.mp h.1).2, fun h =>
    have hM := mem_mismatchSet.mpr ⟨List.mem_range.mp hi, h⟩
    ⟨hM, mem_mismatchPos_of_mem_mismatchSet hM⟩⟩

/-- R52, R73: the low four bits hold the syndrome number, the top bit the overall parity. -/
theorem toNat_packMismatch_mismatchSet (R : CodeVector) :
    (packMismatch (mismatchSet R)).toNat = syndromeNumber R + 16 * (overallParity R).toNat := by
  have hbit : ∀ b p c, mismatchPos[b]? = some p → (p ∈ mismatchSet R ↔ c = true) →
      (packMismatch (mismatchSet R)).getLsbD b = c := fun b p c hp hc => by
    rw [getLsbD_packMismatch _ hp, Bool.eq_iff_iff, decide_eq_true_iff, hc]
  have h0 := hbit 0 0 _ rfl (zero_mem_mismatchSet R)
  have h1 := hbit 1 1 _ rfl (one_mem_mismatchSet R)
  have h2 := hbit 2 3 _ rfl (three_mem_mismatchSet R)
  have h3 := hbit 3 7 _ rfl (seven_mem_mismatchSet R)
  have h4 := hbit 4 12 _ rfl (twelve_mem_mismatchSet R)
  rw [toNat_eq_weightedSum]
  simp only [List.range, List.range.loop, List.map_cons, List.map_nil, List.sum_cons, List.sum_nil, bitAt_eq_getLsbD,
    Nat.reduceSub, Nat.reduceLT, h0, h1, h2, h3, h4, syndromeNumber]
  omega

/-- R73: four bits hold the syndrome number. -/
theorem syndromeNumber_lt (R : CodeVector) : syndromeNumber R < 16 := by
  have h0 := Bool.toNat_le (bitAt R 0 ^^ (checks R).k0)
  have h1 := Bool.toNat_le (bitAt R 1 ^^ (checks R).k1)
  have h3 := Bool.toNat_le (bitAt R 3 ^^ (checks R).k3)
  have h7 := Bool.toNat_le (bitAt R 7 ^^ (checks R).k7)
  rw [syndromeNumber]
  omega

/-! ### The outcome at the ports of DEC (R51) -/

@[simp] theorem outcomePorts_code (R : CodeVector) (o : DecodeOutcome) : (outcomePorts R o).code = R := by
  cases o <;> rfl

/-- R51: status 3 is never driven. -/
theorem outcomePorts_status_ne_three (R : CodeVector) (o : DecodeOutcome) : (outcomePorts R o).status ≠ 3#2 := by
  cases o <;> simp [outcomePorts]

/-! ### The environment's flips (R57, R103) -/

/-- R57, R103: the positions of a FLIP list are in range and pairwise distinct. -/
theorem flipListWf_iff {n : Nat} {ps : List Nat} : flipListWf n ps = true ↔ (∀ p ∈ ps, p < n) ∧ ps.Nodup := by
  simp [flipListWf]

@[simp] theorem flipAll_nil {n : Nat} (V : BitVec n) : flipAll V [] = V := rfl

@[simp] theorem flipAll_cons {n : Nat} (V : BitVec n) (p : Nat) (ps : List Nat) :
    flipAll V (p :: ps) = flipAll (flipBit V p) ps := rfl

/-- Distinct flips inside the vector invert exactly the listed bits. -/
theorem bitAt_flipAll {n : Nat} (V : BitVec n) {ps : List Nat} (hlt : ∀ p ∈ ps, p < n) (hnd : ps.Nodup) (i : Nat) :
    bitAt (flipAll V ps) i = (bitAt V i ^^ decide (i ∈ ps)) := by
  induction ps generalizing V with
  | nil => simp
  | cons p ps ih =>
    obtain ⟨hp, hps⟩ := List.forall_mem_cons.mp hlt
    obtain ⟨hnotMem, hnd'⟩ := List.nodup_cons.mp hnd
    rw [flipAll_cons, ih (flipBit V p) hps hnd', bitAt_flipBit V hp]
    by_cases h : i = p
    · subst h; simp [hnotMem]
    · simp [h]

theorem injectFaults_of_wf {n : Nat} (V : BitVec n) {ps : List Nat} (h : flipListWf n ps = true) :
    injectFaults V ps = some (flipAll V ps, ps) := if_pos h

theorem injectFaults_of_not_wf {n : Nat} (V : BitVec n) {ps : List Nat} (h : flipListWf n ps = false) :
    injectFaults V ps = none := by
  simp [injectFaults, h]

/-- Inverting one bit is XOR with the mask of that one bit. -/
theorem flipBit_eq_xor {n : Nat} (V : BitVec n) {i : Nat} (hi : i < n) : flipBit V i = V ^^^ flipBit 0#n i := by
  refine eq_of_bitAt_eq fun j _ => ?_
  rw [bitAt_xor, bitAt_flipBit V hi, bitAt_flipBit _ hi, bitAt_zero, bitAt_zero]
  by_cases h : j = i <;> simp [h]

/-- Inverting a bit twice restores the vector. -/
theorem flipBit_flipBit {n : Nat} (V : BitVec n) {i : Nat} (hi : i < n) : flipBit (flipBit V i) i = V := by
  refine eq_of_bitAt_eq fun j _ => ?_
  rw [bitAt_flipBit _ hi, bitAt_flipBit V hi, bitAt_flipBit V hi]
  by_cases h : j = i <;> simp [h]

/-! ### Codewords at the receiver: no mismatch of their own, and the mismatches of a single flip (R67, R74, R85) -/

/-- R63: the recomputation is linear. -/
theorem recompute_xor (V W : CodeVector) : recompute (V ^^^ W) = recompute V ^^^ recompute W := by
  refine eq_of_bitAt_eq fun i _ => ?_
  simp only [bitAt_xor, bitAt_recompute, bitAt_writeChecks, checks, spanParity, xorAt_xor]
  split_ifs <;> rfl

/-- R61, R68: a vector PARGEN answers is its own recomputation. -/
@[simp] theorem recompute_parityGenerate (V : CodeVector) : recompute (parityGenerate V) = parityGenerate V := by
  have hspan : spanParity (parityGenerate V) = spanParity (writeChecks V (checks V)) := by
    simp [spanParity_eq, parityGenerate, checksumPos, bitAt_setBit]
  have hchecks : checks (parityGenerate V) = checks V := by
    simp [checks_eq, bitAt_parityGenerate, bitAt_writeChecks]
  refine eq_of_bitAt_eq fun i _ => ?_
  by_cases h : i = 12
  · rw [bitAt_recompute, if_pos h, hspan, parityGenerate, checksumPos, bitAt_setBit _ (by decide), if_pos h]
  · simp only [bitAt_recompute, bitAt_writeChecks, bitAt_parityGenerate, h, if_false, hchecks]
    split_ifs <;> rfl

/-- The mismatches of a codeword sent through the channel are those of the error pattern alone (R74). -/
theorem mismatchSet_encodeVector_xor (D : InfoVector) (E : CodeVector) :
    mismatchSet (encodeVector D ^^^ E) = mismatchSet E := by
  rw [mismatchSet, disagreements, mismatchSet, disagreements]
  refine List.filter_congr fun i _ => ?_
  rw [recompute_xor, encodeVector, recompute_parityGenerate, bitAt_xor, bitAt_xor]
  cases bitAt (parityGenerate (place D)) i <;> simp

/-- R67: a codeword has no mismatch. -/
@[simp] theorem mismatchSet_encodeVector (D : InfoVector) : mismatchSet (encodeVector D) = [] := by
  have h := mismatchSet_encodeVector_xor D 0#13
  rwa [BitVec.xor_zero, show mismatchSet 0#13 = [] by decide] at h

/-- R71: a codeword has even overall parity. -/
@[simp] theorem overallParity_encodeVector (D : InfoVector) : overallParity (encodeVector D) = false := by
  have h := twelve_mem_mismatchSet (encodeVector D)
  rw [mismatchSet_encodeVector] at h
  simpa using h

/-- R65: a codeword's payload reads back. -/
@[simp] theorem extract_encodeVector (D : InfoVector) : extract (encodeVector D) = D := by
  have hinfo : ∀ i ∈ infoPos, bitAt (encodeVector D) i = bitAt (place D) i := by
    simp [infoPos, encodeVector, bitAt_parityGenerate, bitAt_writeChecks]
  rw [extract_congr hinfo, extract_place]

/-- R49: a flip outside the information positions leaves the payload. -/
theorem extract_flipBit_of_notMem (C : CodeVector) {f : Nat} (hf : f < 13) (hinfo : f ∉ infoPos) :
    extract (flipBit C f) = extract C := by
  refine extract_congr fun i hi => ?_
  rw [bitAt_flipBit C hf, if_neg (show i ≠ f from fun h => hinfo (h ▸ hi))]

/-- R74: one flipped bit of a codeword has the mismatches of that bit alone. -/
theorem mismatchSet_flipBit_encodeVector (D : InfoVector) {f : Nat} (hf : f < 13) :
    mismatchSet (flipBit (encodeVector D) f) = mismatchSet (flipBit 0#13 f) := by
  rw [flipBit_eq_xor _ hf, mismatchSet_encodeVector_xor]

/-- Step 4 of R76: a lone checksum mismatch. -/
theorem decodeWith_checksumPos (R : CodeVector) : decodeWith [12] R = .errorFixed (extract R) 12 := rfl

/-- Steps 5 to 8 of R76: mismatching check bits whose flip index is below the limit. -/
theorem decodeWith_of_flipIndex {M : List Nat} (R : CodeVector) {f : Fin 13} (hM : M.filter (· != 12) ≠ [])
    (hf : flipIndex (M.filter (· != 12)) = f.val) (hlt : f.val < 12) : decodeWith M R = correctAt R f := by
  have hne : M ≠ [] := fun h => hM (by rw [h]; rfl)
  have hfin : Fin.ofNat 13 f.val = f := Fin.ext (Nat.mod_eq_of_lt f.isLt)
  simp only [decodeWith, checksumPos, flipLimit, if_neg hne, if_neg hM, hf, if_neg (Nat.not_le.mpr hlt), hfin]

/-- R73, R74: the flip index of a single error's mismatches is its position, on the zero codeword. -/
theorem flipIndex_mismatchSet_flipBit_zero :
    ∀ f : Fin 13, f.val < 12 → (mismatchSet (flipBit 0#13 f.val)).filter (· != 12) ≠ [] ∧
      flipIndex ((mismatchSet (flipBit 0#13 f.val)).filter (· != 12)) = f.val := by
  decide

/-- R85: DECODE corrects every single-bit error of every codeword and reports its position. -/
theorem decodeVector_flipBit_encodeVector (D : InfoVector) (f : Fin 13) :
    decodeVector (flipBit (encodeVector D) f.val) = .errorFixed D f := by
  rw [decodeVector, mismatchSet_flipBit_encodeVector D f.isLt]
  by_cases hf : f.val < 12
  · obtain ⟨hM, hidx⟩ := flipIndex_mismatchSet_flipBit_zero f hf
    rw [decodeWith_of_flipIndex _ hM hidx hf, correctAt_eq, overallParity_flipBit _ f.isLt, overallParity_encodeVector,
      flipBit_flipBit _ f.isLt, extract_encodeVector]
    rfl
  · obtain rfl : f = 12 := Fin.ext (show f.val = 12 by omega)
    have hM : mismatchSet (flipBit 0#13 (12 : Fin 13).val) = [12] := by decide
    rw [hM, decodeWith_checksumPos, extract_flipBit_of_notMem _ (by decide) (by decide), extract_encodeVector]

/-! ### What each line of a script does when its operand can be read (R56, R57) -/

/-- A line that succeeds hands its state to the rest of the script. -/
theorem runScript_cons {l : ScriptLine} {ls : List ScriptLine} {σ τ : ScriptState} (h : runLine l σ = .ok τ) :
    runScript (l :: ls) σ = runScript ls τ := by
  rw [runScript, h]; rfl

section Lines

variable {σ : ScriptState}

theorem runLine_fromByte (x : String) (b : Byte) : runLine (.fromByte x b) σ = .ok (bindName σ x (.info b)) := by
  rw [runLine, fromByte_toNat]

theorem runLine_toByte {x : String} {a : InfoOperand} {D : InfoVector} (h : evalInfo σ a = .ok D) :
    runLine (.toByte x a) σ = .ok (bindName σ x (.byte D)) := by
  rw [runLine, h]
  exact congrArg (fun b => Except.ok (bindName σ x (.byte b))) (ofNat_toByte D)

theorem runLine_encode {x : String} {a : InfoOperand} {D : InfoVector} (h : evalInfo σ a = .ok D) :
    runLine (.encode x a) σ =
      .ok (bindName { σ with machine := σ.machine.putEnc D (encodeVector D) } x (.code (encodeVector D))) := by
  rw [runLine, h]; rfl

theorem runLine_decode {x : String} {a : CodeOperand} {R : CodeVector} (h : evalCode σ a = .ok R) :
    runLine (.decode x a) σ =
      .ok (bindName { σ with machine := σ.machine.putDec (outcomePorts R (decodeVector R)) } x
        (.outcome (decodeVector R))) := by
  rw [runLine, h]
  simp [Except.bind, runOperation, exec_decode, instrPort, readResult, readOutcome_outcomePorts]

theorem runLine_syndrome {x : String} {a : CodeOperand} {R : CodeVector} (h : evalCode σ a = .ok R) :
    runLine (.syndrome x a) σ =
      .ok (bindName { σ with machine := σ.machine.putSyndrome R (packMismatch (mismatchSet R)) } x
        (.mismatch (mismatchSet R))) := by
  rw [runLine, h]
  simp [Except.bind, runOperation, exec_syndrome, instrPort, readResult, unpackMismatch_packMismatch_mismatchSet]

theorem runLine_flip {x : String} {a : CodeOperand} {C : CodeVector} {ps : List Nat} (h : evalCode σ a = .ok C)
    (hps : flipListWf 13 ps = true) : runLine (.flip x a ps) σ = .ok (bindName σ x (.code (flipAll C ps))) := by
  rw [runLine, h]
  simp [Except.bind, injectFaults_of_wf C hps]

/-- R24: a value is the same as itself, a set of positions included. -/
@[simp] theorem sameValue_self (v : ScriptValue) : sameValue v v = true := by
  cases v <;> simp [sameValue]

theorem runLine_expect {x : String} {v : ScriptValue} (h : lookupName σ x = .ok v) : runLine (.expect x v) σ = .ok σ := by
  rw [runLine, h]
  simp [Except.bind, sameValue_self]

end Lines

end Sys2Proof.Machine

/-! ### The statements -/

namespace Sys2Proof.Proofs

open Sys2Proof.Machine

/-- Settles O22: the weighted sum holds at every width, and the text is the vector's bits in index order. -/
theorem codeVectorBusNumbering : Obligations.CodeVectorBusNumbering := by
  refine ⟨fun C i hi => (bitAt_eq_getLsbD C hi).symm, toNat_eq_weightedSum, fun C => ?_, ?_⟩
  · rw [map_toList_render, bitsValue_toBits]
  · decide

/-- Settles O25, from the model's bit-by-bit laws of `place` and `extract`. -/
theorem placeAndExtract : Obligations.PlaceAndExtract := by
  refine ⟨fun D => ?_, fun C => ?_, extract_place, fun C C' h => extract_congr h, by decide⟩
  · simp [bitAt_place]
  · simp [bitAt_extract]

/-- Settles O36: the packed word's value is the syndrome number and, above it, the overall parity. -/
theorem mismatchPortPacking : Obligations.MismatchPortPacking := by
  intro R s
  have hbit : ∀ b p, mismatchPos[b]? = some p →
      ((packMismatch (mismatchSet R)).getLsbD b = true ↔ p ∈ mismatchSet R) := fun b p h => by
    rw [getLsbD_packMismatch _ h, decide_eq_true_iff]
  have hlow : (packMismatch (mismatchSet R)).toNat % 16 = syndromeNumber R := by
    rw [toNat_packMismatch_mismatchSet, Nat.add_mul_mod_self_left, Nat.mod_eq_of_lt (syndromeNumber_lt R)]
  have hparity : (packMismatch (mismatchSet R)).getLsbD 4 = overallParity R := by
    rw [Bool.eq_iff_iff, hbit 4 12 rfl, twelve_mem_mismatchSet]
  exact ⟨_, exec_syndrome R s, hbit 0 0 rfl, hbit 1 1 rfl, hbit 2 3 rfl, hbit 3 7 rfl, hbit 4 12 rfl,
    fun _ => mem_mismatchPos_of_mem_mismatchSet, hlow, hparity⟩

/-- Settles O54, by the induction on the list in `bitAt_flipAll`. -/
theorem flipChangesExactlyListedPositions : Obligations.FlipChangesExactlyListedPositions := by
  refine fun n V ps => ⟨fun h => ⟨_, injectFaults_of_wf V h, fun i _ => ?_⟩, injectFaults_of_not_wf V⟩
  obtain ⟨hlt, hnd⟩ := flipListWf_iff.mp h
  rw [bitAt_flipAll V hlt hnd]
  by_cases hi : i ∈ ps <;> simp [hi]

/-- Settles O56: each line has its law, and DECODE's is the correction of a single error of a codeword. -/
theorem singleErrorScriptRuns : Obligations.SingleErrorScriptRuns := by
  intro b f s
  have hwf : flipListWf 13 [f.val] = true := by simp [flipListWf_iff]
  have hdec : decodeVector (flipAll (encodeVector b) [f.val]) = .errorFixed b f :=
    decodeVector_flipBit_encodeVector b f
  rw [runScript_cons (runLine_fromByte _ _), runScript_cons (runLine_encode (D := b) rfl),
    runScript_cons (runLine_syndrome (R := encodeVector b) rfl), mismatchSet_encodeVector,
    runScript_cons (runLine_expect rfl), runScript_cons (runLine_flip (C := encodeVector b) rfl hwf),
    runScript_cons (runLine_decode (R := flipAll (encodeVector b) [f.val]) rfl), hdec,
    runScript_cons (runLine_toByte (D := b) rfl), runScript_cons (runLine_expect rfl),
    runScript_cons (runLine_expect rfl)]
  exact ⟨_, rfl, rfl, rfl⟩

/-- Settles O23: bit by bit, the shift and mask of R43 are the number's own binary digits. -/
theorem fromByteBits : Obligations.FromByteBits := by
  refine ⟨fun b k _ hk => ?_, fun D k hk => (bitAt_eq_getLsbD D hk).symm, fun b _ => fromByte_eq_ofNat b, by decide⟩
  rw [bitAt_fromByte b hk, Nat.testBit_eq_decide_div_mod_eq, Nat.and_one_is_mod, Nat.shiftRight_eq_div_pow]
  rfl

/-- Settles O24: `to_byte` is the bus word's value and `from_byte` the bus word of a value. -/
theorem byteConversionLossless : Obligations.ByteConversionLossless := by
  refine ⟨fun D => ?_, fun b hb => ?_, fun D => ?_, by decide⟩
  · simp only [toByte, List.range, List.range.loop, List.map_cons, List.map_nil, List.sum_cons, List.sum_nil,
      Nat.reduceSub, Nat.reducePow]
    omega
  · rw [toByte_eq_toNat, fromByte_eq_ofNat, BitVec.toNat_ofNat, Nat.mod_eq_of_lt hb]
  · rw [toByte_eq_toNat, fromByte_toNat]

/-- Settles O42: a port holds the bus word `to_byte` gives, and the reader never looks at the free bits. -/
theorem outcomePortPacking : Obligations.OutcomePortPacking := by
  intro R D x f y
  have hpos : (outcomePorts R (.errorFixed D f)).pos.toNat = f.val :=
    Nat.mod_eq_of_lt (f.isLt.trans (by decide))
  exact ⟨rfl, (ofNat_toByte D).symm, rfl, (ofNat_toByte D).symm, hpos, rfl,
    fun o => ⟨outcomePorts_status_ne_three R o, outcomePorts_code R o, readOutcome_outcomePorts R o⟩, rfl, rfl⟩

end Sys2Proof.Proofs
end

section
/-! PROOFS of the statements of spec/40_parity_generator.md: PARGEN as the encoder of its input's information positions,
then the statements. -/

namespace Sys2Proof.Machine

/-! ### PARGEN reads and keeps the information positions alone (R60, R61) -/

/-- R61: PARGEN encodes the information positions of its input, whatever the other positions hold. -/
theorem parityGenerate_eq_encodeVector_extract (V : CodeVector) : parityGenerate V = encodeVector (extract V) := by
  refine eq_of_bitAt_eq fun i hi => ?_
  rw [encodeVector]
  interval_cases i <;> simp [bitAt_parityGenerate, bitAt_writeChecks, checks_eq, bitAt_place, bitAt_extract]

/-- R60: inputs that agree at the information positions have the same result. -/
theorem parityGenerate_congr {V V' : CodeVector} (h : ∀ i ∈ infoPos, bitAt V i = bitAt V' i) :
    parityGenerate V = parityGenerate V' := by
  rw [parityGenerate_eq_encodeVector_extract, extract_congr h, ← parityGenerate_eq_encodeVector_extract]

/-- R61: a result is a codeword, and a codeword is its own result. -/
@[simp] theorem parityGenerate_parityGenerate (V : CodeVector) : parityGenerate (parityGenerate V) = parityGenerate V := by
  simp only [parityGenerate_eq_encodeVector_extract, extract_encodeVector]

/-- R60: the information positions are kept. -/
theorem bitAt_parityGenerate_of_mem_infoPos (V : CodeVector) {i : Nat} (hi : i ∈ infoPos) :
    bitAt (parityGenerate V) i = bitAt V i := by
  revert i
  simp [infoPos, bitAt_parityGenerate, bitAt_writeChecks]

/-- R60: the checksum is the span parity of the result itself, its check bits included. -/
theorem bitAt_parityGenerate_twelve (V : CodeVector) :
    bitAt (parityGenerate V) 12 = spanParity (parityGenerate V) := by
  conv_lhs => rw [← recompute_parityGenerate, bitAt_recompute, if_pos rfl]

end Sys2Proof.Machine

/-! ### The statements -/

namespace Sys2Proof.Proofs

open Sys2Proof.Machine

/-- Settles O31: the check bits are R58's, the checksum is the result's span parity, and the other positions are kept. -/
theorem pargenWritesCodeword : Obligations.PargenWritesCodeword := by
  refine ⟨fun V s => ?_, fun V V' h => parityGenerate_congr h, by decide, by decide⟩
  have hchecksum := (bitAt_parityGenerate_twelve V).trans (spanParity_eq _)
  refine ⟨_, exec_pargen V s, ?_, ?_, ?_, ?_, fun p hp => bitAt_parityGenerate_of_mem_infoPos V hp, hchecksum⟩ <;>
    simp [bitAt_parityGenerate, bitAt_writeChecks, checks_eq]

/-- Settles O32: PARGEN is ENCODE of the extracted information bits, so a second PARGEN finds the same bits again. -/
theorem pargenReencodes : Obligations.PargenReencodes := by
  intro V s
  have henc := parityGenerate_eq_encodeVector_extract V
  have hchecksum := bitAt_parityGenerate V 12
  exact ⟨_, exec_pargen V s, henc, parityGenerate_parityGenerate V, henc, hchecksum.trans (if_pos rfl)⟩

/-- Settles O33, one list for each of the four binary digits. -/
theorem coverListsAreHammingSubsets : Obligations.CoverListsAreHammingSubsets := by
  intro j c h
  have hj : j < 4 := (List.getElem?_eq_some_iff.mp h).1
  interval_cases j <;> obtain rfl := Option.some.inj h <;> decide

end Sys2Proof.Proofs
end

section
/-! PROOFS of the statements of spec/41_encoder.md: the codewords as the vectors that satisfy the five invariants, the
linearity of the encoder and the weights, then the statements. -/

namespace Sys2Proof.Machine

/-! ### The valid codewords are the vectors without a mismatch (R65, R67) -/

/-- R67 (b): an empty mismatch set is the five invariants at once. -/
theorem mismatchSet_eq_nil_iff (C : CodeVector) :
    mismatchSet C = [] ↔
      bitAt C 0 = (checks C).k0 ∧ bitAt C 1 = (checks C).k1 ∧ bitAt C 3 = (checks C).k3 ∧ bitAt C 7 = (checks C).k7 ∧
        bitAt C 12 = spanParity C := by
  simp [mismatchSet_eq]

/-- A vector that satisfies the five invariants is one PARGEN keeps: each bit it writes is there already. -/
theorem parityGenerate_eq_self_of_mismatchSet_eq_nil {C : CodeVector} (h : mismatchSet C = []) :
    parityGenerate C = C := by
  obtain ⟨h0, h1, h3, h7, h12⟩ := (mismatchSet_eq_nil_iff C).mp h
  have hchecks : writeChecks C (checks C) = C := by
    refine eq_of_bitAt_eq fun i _ => ?_
    rw [bitAt_writeChecks, ← h0, ← h1, ← h3, ← h7]
    split_ifs <;> simp [*]
  refine eq_of_bitAt_eq fun i _ => ?_
  simp only [parityGenerate, checksumPos, hchecks, bitAt_setBit C (show 12 < 13 by decide)]
  split_ifs with hi <;> simp [*]

/-- R67 (c): a vector without a mismatch is the codeword of its payload. -/
theorem eq_encodeVector_extract_of_mismatchSet_eq_nil {C : CodeVector} (h : mismatchSet C = []) :
    C = encodeVector (extract C) := by
  rw [← parityGenerate_eq_encodeVector_extract, parityGenerate_eq_self_of_mismatchSet_eq_nil h]

/-- R67 (b), (c): exactly the valid codewords have no mismatch. -/
theorem validCodeword_iff_mismatchSet_eq_nil (C : CodeVector) : ValidCodeword C ↔ mismatchSet C = [] := by
  refine ⟨?_, fun h => ⟨extract C, eq_encodeVector_extract_of_mismatchSet_eq_nil h⟩⟩
  rintro ⟨D, rfl⟩
  exact mismatchSet_encodeVector D

/-- R65: different payloads have different codewords. -/
theorem encodeVector_injective : Function.Injective encodeVector :=
  Function.LeftInverse.injective extract_encodeVector

/-! ### The encoder is linear (R67 (a)) -/

theorem extract_xor (V W : CodeVector) : extract (V ^^^ W) = extract V ^^^ extract W := by
  refine eq_of_bitAt_eq fun k hk => ?_
  interval_cases k <;> simp [bitAt_xor, bitAt_extract]

/-- The sum of two codewords has no mismatch, so it is the codeword of its payload, the sum of the payloads. -/
theorem encodeVector_xor (A B : InfoVector) : encodeVector (A ^^^ B) = encodeVector A ^^^ encodeVector B := by
  have hsum : mismatchSet (encodeVector A ^^^ encodeVector B) = [] := by
    rw [mismatchSet_encodeVector_xor, mismatchSet_encodeVector]
  rw [eq_encodeVector_extract_of_mismatchSet_eq_nil hsum, extract_xor, extract_encodeVector, extract_encodeVector]

/-! ### The bits of a codeword, and its weight (R66, R67 (d), (e)) -/

/-- R66: the thirteen output bits, index 0 first, in terms of the eight input bits. -/
def codewordBits (d0 d1 d2 d3 d4 d5 d6 d7 : Bool) : List Bool :=
  [d0 ^^ d1 ^^ d3 ^^ d4 ^^ d6, d0 ^^ d2 ^^ d3 ^^ d5 ^^ d6, d0, d1 ^^ d2 ^^ d3 ^^ d7, d1, d2, d3,
    d4 ^^ d5 ^^ d6 ^^ d7, d4, d5, d6, d7, d0 ^^ d1 ^^ d2 ^^ d4 ^^ d5 ^^ d7]

theorem toBits_encodeVector (D : InfoVector) :
    toBits (encodeVector D) =
      codewordBits (bitAt D 0) (bitAt D 1) (bitAt D 2) (bitAt D 3) (bitAt D 4) (bitAt D 5) (bitAt D 6) (bitAt D 7) := by
  simp [toBits, List.range, List.range.loop, codewordBits, encodeVector, bitAt_parityGenerate, bitAt_writeChecks,
    checks_eq, bitAt_place]

/-- Any input bit that is set sets at least four output bits. -/
theorem four_le_count_codewordBits : ∀ d0 d1 d2 d3 d4 d5 d6 d7 : Bool,
    [d0, d1, d2, d3, d4, d5, d6, d7] ≠ List.replicate 8 false →
      4 ≤ (codewordBits d0 d1 d2 d3 d4 d5 d6 d7).count true := by
  decide

/-- R67 (e): no codeword but the zero one has fewer than four ones. -/
theorem four_le_weight_encodeVector {D : InfoVector} (hD : D ≠ 0#8) : 4 ≤ weight (encodeVector D) := by
  rw [weight, toBits_encodeVector]
  exact four_le_count_codewordBits _ _ _ _ _ _ _ _ fun h => hD (toBits_injective h)

/-- The input bits of a byte value are its binary digits (R43). -/
theorem weight_encodeVector_ofNat (b : Nat) :
    weight (encodeVector (BitVec.ofNat 8 b)) =
      (codewordBits (b.testBit 7) (b.testBit 6) (b.testBit 5) (b.testBit 4) (b.testBit 3) (b.testBit 2) (b.testBit 1)
        (b.testBit 0)).count true := by
  simp only [weight, toBits_encodeVector, ← fromByte_eq_ofNat, bitAt_fromByte, Nat.reduceLT, Nat.reduceSub]

/-- A range cut into blocks, so that a count over it is evaluated block by block. -/
theorem range_mul_eq_flatMap (m n : Nat) :
    List.range (m * n) = (List.range m).flatMap fun h => (List.range n).map (n * h + ·) := by
  induction m with
  | zero => simp
  | succ m ih =>
    rw [Nat.succ_mul, List.range_add, ih, List.range_succ, List.flatMap_append, Nat.mul_comm, List.flatMap_singleton]

/-- R67 (d), by evaluating the equations of R66 on all 256 inputs. -/
theorem weight_distribution :
    ([0, 4, 6, 8, 10, 12].map fun k => (List.range 256).countP fun b => weight (encodeVector (BitVec.ofNat 8 b)) == k)
      = [1, 55, 96, 87, 16, 1] := by
  have hrange : List.range 256 = _ := range_mul_eq_flatMap 16 16
  simp only [weight_encodeVector_ofNat, hrange, List.countP_flatMap]
  decide

end Sys2Proof.Machine

/-! ### The statements -/

namespace Sys2Proof.Proofs

open Sys2Proof.Machine

/-- Settles O26: the payload stands at the information positions, and the other five bits are a codeword's five
invariants. -/
theorem encodeWritesCodeword : Obligations.EncodeWritesCodeword := by
  refine ⟨fun D s => ?_, by decide⟩
  obtain ⟨h0, h1, h3, h7, h12⟩ := (mismatchSet_eq_nil_iff _).mp (mismatchSet_encodeVector D)
  rw [checks_eq] at h0 h1 h3 h7
  rw [spanParity_eq] at h12
  have hinfo : ∀ i ∈ infoPos, bitAt (encodeVector D) i = bitAt (place D) i := fun i hi =>
    bitAt_parityGenerate_of_mem_infoPos (place D) hi
  simp only [infoPos, List.forall_mem_cons, bitAt_place, reduceIte, Nat.reduceEqDiff] at hinfo
  obtain ⟨h2, h4, h5, h6, h8, h9, h10, h11, -⟩ := hinfo
  exact ⟨_, exec_encode D s, rfl, h2, h4, h5, h6, h8, h9, h10, h11, h0, h1, h3, h7, h12⟩

/-- Settles O27, index by index from the list of the thirteen output bits. -/
theorem encodeOutputEquations : Obligations.EncodeOutputEquations := by
  intro D s
  refine ⟨_, exec_encode D s, ?_⟩
  simpa [toBits, List.range, List.range.loop, codewordBits] using toBits_encodeVector D

/-- Settles O28: `extract` undoes the encoder, which is therefore injective. -/
theorem encodeTotalAndInjective : Obligations.EncodeTotalAndInjective :=
  ⟨fun D s => ⟨_, _, exec_encode D s, rfl, extract_encodeVector D⟩,
    fun D D' hne s => ⟨_, _, exec_encode D s, exec_encode D' s, encodeVector_injective.ne hne⟩⟩

/-- Settles O29: a vector is a codeword exactly when it has no mismatch, which is the five invariants. -/
theorem validCodewordsAreLinearCode : Obligations.ValidCodewordsAreLinearCode := by
  refine ⟨encodeVector_xor, by decide, fun C => ?_, ?_⟩
  · rw [validCodeword_iff_mismatchSet_eq_nil, mismatchSet_eq_nil_iff]
  · rintro C ⟨D, rfl⟩
    exact ⟨mismatchSet_encodeVector D, overallParity_encodeVector D, by rw [extract_encodeVector]⟩

/-- Settles O30: by linearity the distance of two codewords is the weight of a third one, not zero when they differ. -/
theorem codewordWeightsAndDistance : Obligations.CodewordWeightsAndDistance := by
  refine ⟨weight_distribution, fun A B hne => ?_, ⟨0x80#8, 0#8, by decide⟩⟩
  rw [← encodeVector_xor]
  exact four_le_weight_encodeVector fun h => hne (BitVec.xor_eq_zero_iff.mp h)

end Sys2Proof.Proofs
end

section
/-! PROOFS of the statements of spec/42_syndrome_calculator.md: the syndrome number as what the mismatch set says of the
check positions, as an XOR of error positions, and as all DECODE needs to know of the set, then the statements. -/

namespace Sys2Proof.Machine

/-! ### The information positions never mismatch (R68, R70) -/

theorem notMem_mismatchPos_of_mem_infoPos : ∀ i ∈ infoPos, i ∉ mismatchPos := by
  decide

/-- R68: the information positions are kept. -/
theorem bitAt_recompute_of_mem_infoPos (R : CodeVector) {i : Nat} (hi : i ∈ infoPos) :
    bitAt (recompute R) i = bitAt R i :=
  bitAt_recompute_of_notMem R (notMem_mismatchPos_of_mem_infoPos i hi)

/-- R69: no information position is in the mismatch set. -/
theorem notMem_mismatchSet_of_mem_infoPos (R : CodeVector) {i : Nat} (hi : i ∈ infoPos) : i ∉ mismatchSet R :=
  fun h => notMem_mismatchPos_of_mem_infoPos i hi (mem_mismatchPos_of_mem_mismatchSet h)

/-! ### The syndrome number of a mismatch set (R72, R73) -/

/-- R72: the sum of the positions plus their count is the sum of the positions counted from 1. -/
theorem flipIndex_add_one {M : List Nat} (hM : M ≠ []) : flipIndex M + 1 = (M.map (· + 1)).sum := by
  have hlen := List.length_pos_iff.mpr hM
  have hsum : (M.map (· + 1)).sum = M.sum + M.length := by simp [List.sum_map_add]
  rw [flipIndex, hsum]
  omega

/-- R70: the mismatching check positions, each by its own test. -/
theorem filter_mismatchSet_eq (R : CodeVector) :
    (mismatchSet R).filter (· != 12) =
      (if bitAt R 0 ^^ (checks R).k0 then [0] else []) ++ (if bitAt R 1 ^^ (checks R).k1 then [1] else []) ++
      (if bitAt R 3 ^^ (checks R).k3 then [3] else []) ++ (if bitAt R 7 ^^ (checks R).k7 then [7] else []) := by
  simp [mismatchSet_eq, List.filter_append, apply_ite (List.filter (· != 12))]

/-- R73: the syndrome number is the sum of the mismatching check positions, counted from 1: 1, 2, 4 and 8. -/
theorem syndromeNumber_eq_sum (R : CodeVector) :
    syndromeNumber R = (((mismatchSet R).filter (· != 12)).map (· + 1)).sum := by
  have hsum : ∀ (c : Bool) (p : Nat), ((if c then [p] else []).map (· + 1)).sum = (p + 1) * c.toNat := by
    intro c p; cases c <;> simp
  simp only [filter_mismatchSet_eq, List.map_append, List.sum_append, hsum, syndromeNumber]

/-- R73: the syndrome number is 0 exactly when no check position mismatches. -/
theorem syndromeNumber_eq_zero_iff (R : CodeVector) :
    syndromeNumber R = 0 ↔ (mismatchSet R).filter (· != 12) = [] := by
  rw [syndromeNumber_eq_sum]
  cases (mismatchSet R).filter (· != 12) <;> simp

/-- R70: no check position mismatches exactly when the four check bits agree. -/
theorem syndromeNumber_eq_zero_iff_checks (R : CodeVector) :
    syndromeNumber R = 0 ↔
      bitAt R 0 = (checks R).k0 ∧ bitAt R 1 = (checks R).k1 ∧ bitAt R 3 = (checks R).k3 ∧ bitAt R 7 = (checks R).k7 := by
  simp [syndromeNumber, and_assoc]

/-- R71: beside the check positions there is the checksum position alone, under odd overall parity. -/
theorem mismatchSet_eq_filter_append (R : CodeVector) :
    mismatchSet R = (mismatchSet R).filter (· != 12) ++ if overallParity R then [12] else [] := by
  rw [filter_mismatchSet_eq, overallParity_eq, Bool.xor_comm (spanParity R), mismatchSet_eq]

/-- R71: nothing mismatches exactly when the syndrome number is 0 and the overall parity is even. -/
theorem mismatchSet_eq_nil_iff_syndromeNumber (R : CodeVector) :
    mismatchSet R = [] ↔ syndromeNumber R = 0 ∧ overallParity R = false := by
  rw [syndromeNumber_eq_zero_iff]
  conv_lhs => rw [mismatchSet_eq_filter_append]
  simp

/-- R69: the checksum mismatches alone exactly when the syndrome number is 0 and the overall parity is odd. -/
theorem mismatchSet_eq_singleton_iff (R : CodeVector) :
    mismatchSet R = [12] ↔ syndromeNumber R = 0 ∧ overallParity R = true := by
  rw [syndromeNumber_eq_zero_iff]
  constructor
  · intro h
    have hmem : 12 ∈ mismatchSet R := by simp [h]
    exact ⟨by rw [h]; rfl, (twelve_mem_mismatchSet R).mp hmem⟩
  · rintro ⟨hcheck, hodd⟩
    rw [mismatchSet_eq_filter_append, hcheck, hodd]
    rfl

/-! ### The syndrome number and the parity as XORs over the ones of a vector (R71, R74) -/

theorem xorAt_cons {n : Nat} (V : BitVec n) (i : Nat) (ps : List Nat) :
    xorAt V (i :: ps) = (bitAt V i ^^ xorAt V ps) := by
  induction ps using List.reverseRecOn with
  | nil => simp [xorAt]
  | append_singleton l j ih =>
    rw [← List.cons_append, xorAt_append_singleton, xorAt_append_singleton, ih, Bool.xor_assoc]

/-- The XOR over positions is the parity of the number of ones there. -/
theorem xorAt_eq_decide_count {n : Nat} (V : BitVec n) (ps : List Nat) :
    xorAt V ps = decide ((ps.map (bitAt V)).count true % 2 = 1) := by
  induction ps with
  | nil => rfl
  | cons p ps ih =>
    rw [xorAt_cons, ih, List.map_cons, List.count_cons, Bool.eq_iff_iff]
    cases bitAt V p with
    | false => simp
    | true => simp; omega

/-- R71: the overall parity is the parity of the weight. -/
theorem overallParity_eq_decide_weight (V : CodeVector) : overallParity V = decide (weight V % 2 = 1) :=
  xorAt_eq_decide_count V (List.range 13)

/-- Binary digit `j` of the XOR of positions, counted from 1, is the XOR over the positions that have this digit. -/
theorem testBit_foldl_xor_succ {n : Nat} (V : BitVec n) (ps : List Nat) (j : Nat) :
    ((ps.filter (bitAt V ·)).foldl (fun acc p => acc ^^^ (p + 1)) 0).testBit j =
      xorAt V (ps.filter fun p => (p + 1).testBit j) := by
  induction ps using List.reverseRecOn with
  | nil => simp [xorAt_nil]
  | append_singleton l p ih =>
    rw [List.filter_append, List.filter_append, List.foldl_append]
    cases hV : bitAt V p <;> cases hj : (p + 1).testBit j <;>
      simp [hV, hj, ih, xorAt_append_singleton]

/-- R73: the syndrome number is the number of the four check-bit mismatches, position 7's most significant. -/
theorem syndromeNumber_eq_bitsValue (R : CodeVector) :
    syndromeNumber R = bitsValue [bitAt R 7 ^^ (checks R).k7, bitAt R 3 ^^ (checks R).k3, bitAt R 1 ^^ (checks R).k1,
      bitAt R 0 ^^ (checks R).k0] := by
  simp only [syndromeNumber, bitsValue_cons, bitsValue_nil, List.length_cons, List.length_nil]
  omega

/-- R62, R73: digit `j` of the syndrome number is the XOR over the positions that have this digit when counted from 1:
the check position and the positions it covers. -/
theorem testBit_syndromeNumber (R : CodeVector) (j : Nat) :
    (syndromeNumber R).testBit j = xorAt R ((List.range 12).filter fun p => (p + 1).testBit j) := by
  by_cases hj : j < 4
  · have h0 : ((List.range 12).filter fun p => (p + 1).testBit 0) = 0 :: cover0 := by decide
    have h1 : ((List.range 12).filter fun p => (p + 1).testBit 1) = 1 :: cover1 := by decide
    have h3 : ((List.range 12).filter fun p => (p + 1).testBit 2) = 3 :: cover3 := by decide
    have h7 : ((List.range 12).filter fun p => (p + 1).testBit 3) = 7 :: cover7 := by decide
    rw [syndromeNumber_eq_bitsValue, testBit_bitsValue _ (by simpa using hj)]
    interval_cases j
    · rw [h0, xorAt_cons]; rfl
    · rw [h1, xorAt_cons]; rfl
    · rw [h3, xorAt_cons]; rfl
    · rw [h7, xorAt_cons]; rfl
  · have hpow : 2 ^ 4 ≤ 2 ^ j := Nat.pow_le_pow_right (by decide) (by omega)
    have hnil : ((List.range 12).filter fun p => (p + 1).testBit j) = [] := by
      refine List.filter_eq_nil_iff.mpr fun p hp => ?_
      have hp' := List.mem_range.mp hp
      simp [Nat.testBit_lt_two_pow (show p + 1 < 2 ^ j by omega)]
    rw [hnil, xorAt_nil, Nat.testBit_lt_two_pow ((syndromeNumber_lt R).trans_le hpow)]

/-- R74: the syndrome number is the XOR of `p + 1` over the ones at the positions 0 to 11. -/
theorem syndromeNumber_eq_foldl_xor (E : CodeVector) :
    syndromeNumber E = ((List.range 12).filter (bitAt E ·)).foldl (fun acc p => acc ^^^ (p + 1)) 0 := by
  refine Nat.eq_of_testBit_eq fun j => ?_
  rw [testBit_syndromeNumber, testBit_foldl_xor_succ]

/-! ### The two readings of decode step 1 (R68, R75) -/

/-- R68: the received checksum bit enters no bit of the recomputed vector. -/
theorem recompute_flipBit_twelve (R : CodeVector) : recompute (flipBit R 12) = recompute R := by
  refine eq_of_bitAt_eq fun i _ => ?_
  simp only [bitAt_recompute, bitAt_writeChecks, checks_eq, spanParity_eq, bitAt_flipBit R (show 12 < 13 by decide),
    reduceIte, Nat.reduceEqDiff]
  split_ifs <;> rfl

/-- R75: the readings agree at the positions 0 to 11. -/
theorem bitAt_parityGenerate_of_ne_twelve (R : CodeVector) {i : Nat} (hi : i ≠ 12) :
    bitAt (parityGenerate R) i = bitAt (recompute R) i := by
  rw [bitAt_parityGenerate, bitAt_recompute, if_neg hi, if_neg hi]

/-- Each check bit that is replaced by another value inverts the span parity. -/
theorem spanParity_writeChecks (V : CodeVector) (K : CheckBits) :
    spanParity (writeChecks V K) =
      (spanParity V ^^ (bitAt V 0 ^^ K.k0) ^^ (bitAt V 1 ^^ K.k1) ^^ (bitAt V 3 ^^ K.k3) ^^ (bitAt V 7 ^^ K.k7)) := by
  simp [spanParity_eq, bitAt_writeChecks, Bool.xor_comm, Bool.xor_left_comm]

/-- R75: PARGEN's checksum differs from the recomputed one by the mismatches of the check bits. -/
theorem bitAt_parityGenerate_twelve_eq (R : CodeVector) :
    bitAt (parityGenerate R) 12 = (spanParity R ^^ (bitAt R 0 ^^ (checks R).k0) ^^ (bitAt R 1 ^^ (checks R).k1) ^^
      (bitAt R 3 ^^ (checks R).k3) ^^ (bitAt R 7 ^^ (checks R).k7)) := by
  rw [← spanParity_writeChecks, parityGenerate, checksumPos, bitAt_setBit _ (by decide), if_pos rfl]

/-- R75: with no mismatching check bit the readings are the same vector. -/
theorem parityGenerate_eq_recompute {R : CodeVector} (h : syndromeNumber R = 0) : parityGenerate R = recompute R := by
  obtain ⟨h0, h1, h3, h7⟩ := (syndromeNumber_eq_zero_iff_checks R).mp h
  refine eq_of_bitAt_eq fun i _ => ?_
  by_cases hi : i = 12
  · rw [hi, bitAt_parityGenerate_twelve_eq, bitAt_recompute, if_pos rfl, h0, h1, h3, h7]
    simp
  · exact bitAt_parityGenerate_of_ne_twelve R hi

/-- Steps 5 to 8 of R76 read the mismatching check positions alone. -/
theorem decodeWith_congr {M N : List Nat} (R : CodeVector) (hN : N.filter (· != checksumPos) ≠ [])
    (h : M.filter (· != checksumPos) = N.filter (· != checksumPos)) : decodeWith M R = decodeWith N R := by
  have hN' : N ≠ [] := fun hnil => hN (by rw [hnil]; rfl)
  have hM' : M ≠ [] := fun hnil => hN (by rw [← h, hnil]; rfl)
  simp only [decodeWith, hM', hN', h, if_false]

/-- R75: DECODE has the same outcome under both readings. -/
theorem decodeWith_disagreements_parityGenerate (R : CodeVector) :
    decodeWith (disagreements R (parityGenerate R)) R = decodeVector R := by
  by_cases hs : syndromeNumber R = 0
  · rw [parityGenerate_eq_recompute hs]; rfl
  · exact decodeWith_congr R (fun h => hs ((syndromeNumber_eq_zero_iff R).mpr h)) (disagreements_parityGenerate_eq R)

end Sys2Proof.Machine

/-! ### The statements -/

namespace Sys2Proof.Proofs

open Sys2Proof.Machine

/-- Settles O34, from the model's bit-by-bit law of `recompute`. -/
theorem recomputedVectorBits : Obligations.RecomputedVectorBits := by
  intro R
  refine ⟨?_, ?_, ?_, ?_, fun p hp => bitAt_recompute_of_mem_infoPos R hp, ?_, recompute_flipBit_twelve R⟩ <;>
    simp [bitAt_recompute, bitAt_writeChecks, checks_eq, spanParity_eq]

/-- Settles O35: the word on the port unpacks to the mismatch set, whose laws answer every clause. -/
theorem syndromeWritesMismatchSet : Obligations.SyndromeWritesMismatchSet := by
  refine ⟨fun R s => ⟨_, exec_syndrome R s, ?_⟩, by decide, by decide⟩
  rw [unpackMismatch_packMismatch_mismatchSet]
  refine ⟨fun i => mem_mismatchSet, fun i hi => notMem_mismatchSet_of_mem_infoPos R hi,
    (validCodeword_iff_mismatchSet_eq_nil R).symm, ?_⟩
  rw [mismatchSet_eq_singleton_iff, syndromeNumber_eq_zero_iff_checks]
  simp only [and_assoc]

/-- Settles O37, from the membership test of each check position and the packing of the five positions. -/
theorem onlyFivePositionsMismatch : Obligations.OnlyFivePositionsMismatch := fun R =>
  ⟨fun _ hp => bitAt_recompute_of_mem_infoPos R hp, fun _ => mem_mismatchPos_of_mem_mismatchSet,
    zero_mem_mismatchSet R, one_mem_mismatchSet R, three_mem_mismatchSet R, seven_mem_mismatchSet R,
    unpackMismatch_packMismatch_mismatchSet R⟩

/-- Settles O38: the checksum's own test, and the empty mismatch set by syndrome number and parity. -/
theorem checksumMismatchIsOddParity : Obligations.ChecksumMismatchIsOddParity := by
  refine fun R => ⟨?_, twelve_mem_mismatchSet R, ?_, (validCodeword_iff_mismatchSet_eq_nil R).symm⟩
  · simp [mem_mismatchSet, bitAt_recompute]
  · rw [mismatchSet_eq_nil_iff_syndromeNumber, syndromeNumber_eq_zero_iff_checks]
    simp only [and_assoc]

/-- Settles O39: both numbers are sums over the mismatching check positions, counted from 1 in the syndrome number. -/
theorem flipIndexIsSyndromeLessOne : Obligations.FlipIndexIsSyndromeLessOne := by
  have hle : ∀ M ∈ [0, 1, 3, 7].sublists, flipIndex M ≤ 14 := by decide
  refine ⟨fun R => ⟨Nat.le_of_lt_succ (syndromeNumber_lt R), syndromeNumber_eq_zero_iff R, fun hM => ?_⟩, by decide,
    fun M hM _ => ⟨rfl, hle M hM⟩⟩
  rw [flipIndex_add_one hM, syndromeNumber_eq_sum]

/-- Settles O40: a codeword drops out of the mismatch set by linearity, so a single error is tabled on the zero
codeword, and the syndrome number and the parity are XORs over the error pattern's ones. -/
theorem mismatchSetDependsOnErrorAlone : Obligations.MismatchSetDependsOnErrorAlone := by
  refine ⟨fun D => ?_, fun D p hp => ?_, fun D E => ?_⟩
  · have hzero : ∀ p ∈ List.range 13, mismatchSet (flipBit (encodeVector D) p) = mismatchSet (flipBit 0#13 p) :=
      fun p hp => mismatchSet_flipBit_encodeVector D (List.mem_range.mp hp)
    rw [List.map_congr_left hzero]
    decide
  · have hp13 : p < 13 := by omega
    rw [mismatchSet_flipBit_encodeVector D hp13]
    exact (flipIndex_mismatchSet_flipBit_zero ⟨p, hp13⟩ hp).2
  · have hM : mismatchSet (channel (encodeVector D) E) = mismatchSet E := mismatchSet_encodeVector_xor D E
    refine ⟨hM, ?_, ?_⟩
    · rw [syndromeNumber_eq_sum, hM, ← syndromeNumber_eq_sum, syndromeNumber_eq_foldl_xor]
    · rw [hM, twelve_mem_mismatchSet, overallParity_eq_decide_weight, decide_eq_true_iff]

/-- Settles O41: the readings are one vector when no check bit mismatches, and otherwise DECODE never looks at the
checksum's own mismatch. -/
theorem checksumReadingsDecodeAlike : Obligations.ChecksumReadingsDecodeAlike := fun R =>
  ⟨decodeWith_disagreements_parityGenerate R, fun _ hi => bitAt_parityGenerate_of_ne_twelve R hi,
    bitAt_parityGenerate_twelve_eq R, parityGenerate_eq_recompute⟩

end Sys2Proof.Proofs
end

section
/-! PROOFS of the statements of spec/43_decoder.md: the tests of R76 and its closed form, the syndrome number of a flipped
vector, the one input that has a given outcome, error patterns by weight and by positions, then the statements. -/

namespace Sys2Proof.Machine

/-! ### The tests of R76, one lemma each (R77 to R81, R83) -/

/-- Step 6 of R76: a flip index at or above the limit. -/
theorem decodeWith_of_limit_le {M : List Nat} (R : CodeVector) (hM : M.filter (· != 12) ≠ [])
    (hf : 12 ≤ flipIndex (M.filter (· != 12))) : decodeWith M R = .multipleErrorsDetected := by
  have hne : M ≠ [] := fun h => hM (by rw [h]; rfl)
  simp only [decodeWith, checksumPos, flipLimit, if_neg hne, if_neg hM, ge_iff_le, if_pos hf]

/-- Step 8 of R76: the corrected copy disagrees with its own checksum bit. -/
theorem correctAt_of_ne {R : CodeVector} {f : Fin 13}
    (h : spanParity (flipBit R f.val) ≠ bitAt (flipBit R f.val) 12) : correctAt R f = .multipleErrorsDetected :=
  if_pos (bne_iff_ne.mpr h)

/-- Step 8 of R76: the corrected copy agrees with its own checksum bit. -/
theorem correctAt_of_eq {R : CodeVector} {f : Fin 13}
    (h : spanParity (flipBit R f.val) = bitAt (flipBit R f.val) 12) :
    correctAt R f = .errorFixed (extract (flipBit R f.val)) f :=
  if_neg fun hne => bne_iff_ne.mp hne h

/-- R78, R79: a mismatch set without check positions is empty or the checksum position alone. -/
theorem mismatchSet_eq_nil_or_singleton {R : CodeVector} (h : (mismatchSet R).filter (· != 12) = []) :
    mismatchSet R = [] ∨ mismatchSet R = [12] := by
  have hs := (syndromeNumber_eq_zero_iff R).mpr h
  rw [mismatchSet_eq_nil_iff_syndromeNumber, mismatchSet_eq_singleton_iff]
  cases overallParity R <;> simp [hs]

/-! ### The closed form (R84) -/

/-- R72, R73: the candidate position of step 5 is the syndrome number less one. -/
theorem flipIndex_mismatchSet {R : CodeVector} (h : syndromeNumber R ≠ 0) :
    (mismatchSet R).filter (· != 12) ≠ [] ∧
      flipIndex ((mismatchSet R).filter (· != 12)) = syndromeNumber R - 1 := by
  have hM := mt (syndromeNumber_eq_zero_iff R).mpr h
  refine ⟨hM, ?_⟩
  rw [syndromeNumber_eq_sum, ← flipIndex_add_one hM, Nat.add_sub_cancel]

/-- R84, row 1: a valid codeword. -/
theorem decodeVector_of_noMismatch {R : CodeVector} (hs : syndromeNumber R = 0) (hP : overallParity R = false) :
    decodeVector R = .ok (extract R) := by
  rw [decodeVector, (mismatchSet_eq_nil_iff_syndromeNumber R).mpr ⟨hs, hP⟩]
  rfl

/-- R84, row 2: the checksum bit alone is wrong. -/
theorem decodeVector_of_loneChecksum {R : CodeVector} (hs : syndromeNumber R = 0) (hP : overallParity R = true) :
    decodeVector R = .errorFixed (extract R) 12 := by
  rw [decodeVector, (mismatchSet_eq_singleton_iff R).mpr ⟨hs, hP⟩, decodeWith_checksumPos]

/-- R84, rows 3 and 4, before step 8 has looked at the parity. -/
theorem decodeVector_eq_correctAt {R : CodeVector} {f : Fin 13} (hs : syndromeNumber R = f.val + 1) (hf : f.val < 12) :
    decodeVector R = correctAt R f := by
  obtain ⟨hM, hidx⟩ := flipIndex_mismatchSet (R := R) (by omega)
  exact decodeWith_of_flipIndex R hM (by omega) hf

/-- R84, row 3: odd parity confirms the position the syndrome number names. -/
theorem decodeVector_of_odd {R : CodeVector} {f : Fin 13} (hs : syndromeNumber R = f.val + 1) (hf : f.val < 12)
    (hP : overallParity R = true) : decodeVector R = .errorFixed (extract (flipBit R f.val)) f := by
  rw [decodeVector_eq_correctAt hs hf, correctAt_eq, if_pos hP]

/-- A syndrome number from 1 to 12 is that of one of the positions 0 to 11. -/
theorem exists_position_of_syndromeNumber {R : CodeVector} (hs : syndromeNumber R ≠ 0) (hlim : ¬13 ≤ syndromeNumber R) :
    ∃ f : Fin 13, f.val < 12 ∧ syndromeNumber R = f.val + 1 := by
  obtain ⟨f, hf⟩ := Nat.exists_eq_succ_of_ne_zero hs
  exact ⟨⟨f, by omega⟩, show f < 12 by omega, hf⟩

/-- R84, rows 4 to 6: mismatching check bits under even parity, or a syndrome number no position has. -/
theorem decodeVector_of_uncorrectable {R : CodeVector} (hs : syndromeNumber R ≠ 0)
    (h : 13 ≤ syndromeNumber R ∨ overallParity R = false) : decodeVector R = .multipleErrorsDetected := by
  by_cases hlim : 13 ≤ syndromeNumber R
  · obtain ⟨hM, hidx⟩ := flipIndex_mismatchSet hs
    exact decodeWith_of_limit_le R hM (by omega)
  · obtain ⟨f, hf, hsf⟩ := exists_position_of_syndromeNumber hs hlim
    rw [decodeVector_eq_correctAt hsf hf, correctAt_eq, h.resolve_left hlim]
    rfl

/-- R84: the table as one equation. -/
theorem decodeVector_eq (R : CodeVector) :
    decodeVector R =
      if syndromeNumber R = 0 then
        if overallParity R then .errorFixed (extract R) 12 else .ok (extract R)
      else if syndromeNumber R ≤ 12 ∧ overallParity R = true then
        .errorFixed (extract (flipBit R (syndromeNumber R - 1))) (Fin.ofNat 13 (syndromeNumber R - 1))
      else .multipleErrorsDetected := by
  split_ifs with hs hP hodd
  · exact decodeVector_of_loneChecksum hs hP
  · exact decodeVector_of_noMismatch hs (Bool.eq_false_of_not_eq_true hP)
  · have hval : (Fin.ofNat 13 (syndromeNumber R - 1)).val = syndromeNumber R - 1 := Nat.mod_eq_of_lt (by omega)
    rw [decodeVector_of_odd (f := Fin.ofNat 13 (syndromeNumber R - 1)) (by omega) (by omega) hodd.2, hval]
  · refine decodeVector_of_uncorrectable hs (or_iff_not_imp_right.mpr fun hP => ?_)
    by_contra hlim
    exact hodd ⟨by omega, Bool.eq_true_of_not_eq_false hP⟩

/-! ### The syndrome number and the parity after flips (R63, R74) -/

theorem syndromeNumber_xor (V W : CodeVector) : syndromeNumber (V ^^^ W) = syndromeNumber V ^^^ syndromeNumber W := by
  refine Nat.eq_of_testBit_eq fun j => ?_
  simp only [Nat.testBit_xor, testBit_syndromeNumber, xorAt_xor]

/-- R74: what one inverted bit adds to the syndrome number: its position counted from 1, and nothing for the checksum. -/
def positionSyndrome (p : Nat) : Nat :=
  if p < 12 then p + 1 else 0

theorem syndromeNumber_flipBit (R : CodeVector) {p : Nat} (hp : p < 13) :
    syndromeNumber (flipBit R p) = syndromeNumber R ^^^ positionSyndrome p := by
  have hzero : ∀ p < 13, syndromeNumber (flipBit 0#13 p) = positionSyndrome p := by decide
  rw [flipBit_eq_xor R hp, syndromeNumber_xor, hzero p hp]

@[simp] theorem syndromeNumber_encodeVector (D : InfoVector) : syndromeNumber (encodeVector D) = 0 :=
  ((mismatchSet_eq_nil_iff_syndromeNumber _).mp (mismatchSet_encodeVector D)).1

/-- R67 (c), R71: syndrome number 0 and even parity make a codeword. -/
theorem eq_encodeVector_extract {R : CodeVector} (hs : syndromeNumber R = 0) (hP : overallParity R = false) :
    R = encodeVector (extract R) :=
  eq_encodeVector_extract_of_mismatchSet_eq_nil ((mismatchSet_eq_nil_iff_syndromeNumber R).mpr ⟨hs, hP⟩)

/-- R80, R81: under odd parity, inverting the bit the syndrome number names gives a codeword. -/
theorem flipBit_eq_encodeVector_extract {R : CodeVector} {f : Nat} (hf : f < 13)
    (hs : syndromeNumber R = positionSyndrome f) (hP : overallParity R = true) :
    flipBit R f = encodeVector (extract (flipBit R f)) := by
  refine eq_encodeVector_extract ?_ ?_
  · rw [syndromeNumber_flipBit R hf, hs, Nat.xor_self]
  · rw [overallParity_flipBit R hf, hP]; rfl

/-! ### Every outcome but the detection of several errors has exactly one input per payload (R77, R85, R88) -/

/-- R85: the clean round trip. -/
@[simp] theorem decodeVector_encodeVector (D : InfoVector) : decodeVector (encodeVector D) = .ok D := by
  rw [decodeVector_of_noMismatch (syndromeNumber_encodeVector D) (overallParity_encodeVector D), extract_encodeVector]

/-- R82, R84: what DECODE can answer: a codeword's payload, the correction of one bit to a codeword, or a detection. -/
theorem decodeVector_cases (R : CodeVector) :
    (∃ D, R = encodeVector D ∧ decodeVector R = .ok D) ∨
    (∃ D, ∃ f : Fin 13, R = flipBit (encodeVector D) f.val ∧ decodeVector R = .errorFixed D f) ∨
    decodeVector R = .multipleErrorsDetected := by
  have hfixed : ∀ f : Fin 13, syndromeNumber R = positionSyndrome f.val → overallParity R = true →
      ∃ D, ∃ f : Fin 13, R = flipBit (encodeVector D) f.val ∧ decodeVector R = .errorFixed D f := by
    intro f hs hP
    have hR : R = flipBit (encodeVector (extract (flipBit R f.val))) f.val := by
      rw [← flipBit_eq_encodeVector_extract f.isLt hs hP, flipBit_flipBit R f.isLt]
    exact ⟨_, f, hR, by conv_lhs => rw [hR, decodeVector_flipBit_encodeVector]⟩
  cases hP : overallParity R with
  | false =>
    by_cases hs : syndromeNumber R = 0
    · exact .inl ⟨_, eq_encodeVector_extract hs hP, decodeVector_of_noMismatch hs hP⟩
    · exact .inr (.inr (decodeVector_of_uncorrectable hs (.inr hP)))
  | true =>
    by_cases hs : syndromeNumber R = 0
    · exact .inr (.inl (hfixed 12 hs hP))
    by_cases hlim : 13 ≤ syndromeNumber R
    · exact .inr (.inr (decodeVector_of_uncorrectable hs (.inl hlim)))
    · obtain ⟨f, hf, hsf⟩ := exists_position_of_syndromeNumber hs hlim
      exact .inr (.inl (hfixed f (hsf.trans (if_pos hf).symm) hP))

theorem decodeVector_eq_ok_iff {R : CodeVector} {D : InfoVector} : decodeVector R = .ok D ↔ R = encodeVector D := by
  refine ⟨fun h => ?_, fun h => by rw [h, decodeVector_encodeVector]⟩
  obtain ⟨D', hR, h'⟩ | ⟨D', f, -, h'⟩ | h' := decodeVector_cases R
  · obtain rfl : D = D' := by simpa [h'] using h.symm
    exact hR
  · simp [h'] at h
  · simp [h'] at h

theorem decodeVector_eq_errorFixed_iff {R : CodeVector} {D : InfoVector} {f : Fin 13} :
    decodeVector R = .errorFixed D f ↔ R = flipBit (encodeVector D) f.val := by
  refine ⟨fun h => ?_, fun h => by rw [h, decodeVector_flipBit_encodeVector]⟩
  obtain ⟨D', -, h'⟩ | ⟨D', f', hR, h'⟩ | h' := decodeVector_cases R
  · simp [h'] at h
  · obtain ⟨rfl, rfl⟩ : D = D' ∧ f = f' := by simpa [h'] using h.symm
    exact hR
  · simp [h'] at h

/-! ### Counting inputs by outcome (R84) -/

/-- As many vectors have a property as there are payloads, when each has it for exactly one payload. -/
theorem countP_range_of_injective {m n : Nat} {g : BitVec m → BitVec n} (hg : g.Injective) {q : BitVec n → Bool}
    (hq : ∀ R, q R = true ↔ ∃ D, R = g D) : ((List.range (2 ^ n)).countP fun w => q (BitVec.ofNat n w)) = 2 ^ m := by
  have hinj : ∀ b ∈ List.range (2 ^ m), ∀ c ∈ List.range (2 ^ m),
      (g (BitVec.ofNat m b)).toNat = (g (BitVec.ofNat m c)).toNat → b = c := by
    intro b hb c hc h
    have hbc := congrArg BitVec.toNat (hg (BitVec.eq_of_toNat_eq h))
    rwa [BitVec.toNat_ofNat, BitVec.toNat_ofNat, Nat.mod_eq_of_lt (List.mem_range.mp hb),
      Nat.mod_eq_of_lt (List.mem_range.mp hc)] at hbc
  have hperm : ((List.range (2 ^ n)).filter fun w => q (BitVec.ofNat n w)).Perm
      ((List.range (2 ^ m)).map fun b => (g (BitVec.ofNat m b)).toNat) := by
    refine (List.perm_ext_iff_of_nodup (List.nodup_range.filter _) (List.nodup_range.map_on hinj)).mpr fun w => ?_
    simp only [List.mem_filter, List.mem_range, List.mem_map, hq]
    constructor
    · rintro ⟨hw, D, hD⟩
      refine ⟨D.toNat, D.isLt, ?_⟩
      rw [BitVec.ofNat_toNat, BitVec.setWidth_eq, ← hD, BitVec.toNat_ofNat, Nat.mod_eq_of_lt hw]
    · rintro ⟨b, -, rfl⟩
      exact ⟨(g _).isLt, _, by rw [BitVec.ofNat_toNat, BitVec.setWidth_eq]⟩
  rw [List.countP_eq_length_filter, hperm.length_eq, List.length_map, List.length_range]

/-- R23: the outcome is a correction at position `p`. -/
def fixesAt (p : Fin 13) : DecodeOutcome → Bool
  | .errorFixed _ q => q == p
  | _ => false

theorem fixesAt_iff {p : Fin 13} {o : DecodeOutcome} : fixesAt p o = true ↔ ∃ D, o = .errorFixed D p := by
  cases o <;> simp [fixesAt]

/-- R77: the outcome of a received codeword is its own payload. -/
theorem decodeVector_eq_ok_extract_iff {R : CodeVector} :
    decodeVector R = .ok (extract R) ↔ ∃ D, R = encodeVector D := by
  rw [decodeVector_eq_ok_iff]
  refine ⟨fun h => ⟨_, h⟩, ?_⟩
  rintro ⟨D, rfl⟩
  rw [extract_encodeVector]

theorem flipBit_injective {n i : Nat} (hi : i < n) : Function.Injective fun V : BitVec n => flipBit V i :=
  Function.LeftInverse.injective (g := fun V => flipBit V i) fun V => flipBit_flipBit V hi

/-- R82: each input is counted under exactly one outcome. -/
theorem length_eq_sum_countP_outcomes (Rs : List CodeVector) :
    Rs.length = Rs.countP (fun R => decodeVector R == .ok (extract R)) +
      ∑ p, Rs.countP (fun R => fixesAt p (decodeVector R)) +
      Rs.countP (fun R => decodeVector R == .multipleErrorsDetected) := by
  induction Rs with
  | nil => simp
  | cons R Rs ih =>
    simp only [List.length_cons, List.countP_cons, Finset.sum_add_distrib, ih]
    obtain ⟨D, hR, h⟩ | ⟨D, f, -, h⟩ | h := decodeVector_cases R
    · have hD : extract R = D := by rw [hR, extract_encodeVector]
      simp [h, hD, fixesAt]
      omega
    · simp [h, fixesAt]
      omega
    · simp [h, fixesAt]
      omega

/-! ### Error patterns by weight (R67 (e), R85, R86, R87, R103) -/

theorem toBits_flipBit {n : Nat} (V : BitVec n) {i : Nat} (hi : i < n) :
    toBits (flipBit V i) = (toBits V).set i (!bitAt V i) := by
  refine List.ext_getElem (by simp) fun j hj _ => ?_
  have hj' : j < n := by simpa using hj
  simp [toBits, bitAt_flipBit V hi, List.getElem_set, eq_comm]

theorem weight_flipBit_of_false {n : Nat} {V : BitVec n} {i : Nat} (hi : i < n) (h : bitAt V i = false) :
    weight (flipBit V i) = weight V + 1 := by
  rw [weight, toBits_flipBit V hi, List.count_set (by simpa using hi)]
  simp [toBits, h, weight]

theorem weight_flipBit_of_true {n : Nat} {V : BitVec n} {i : Nat} (hi : i < n) (h : bitAt V i = true) :
    weight (flipBit V i) + 1 = weight V := by
  have hback := weight_flipBit_of_false (V := flipBit V i) hi (by rw [bitAt_flipBit V hi, if_pos rfl, h]; rfl)
  rw [← hback, flipBit_flipBit V hi]

@[simp] theorem weight_eq_zero_iff {n : Nat} {V : BitVec n} : weight V = 0 ↔ V = 0#n := by
  rw [weight, List.count_eq_zero]
  constructor
  · intro h
    refine eq_of_bitAt_eq fun i hi => ?_
    have hi0 : bitAt V i = false := by
      by_contra hne
      exact h (List.mem_map.mpr ⟨i, List.mem_range.mpr hi, Bool.eq_true_of_not_eq_false hne⟩)
    rw [hi0, bitAt_zero]
  · rintro rfl
    simp [toBits, bitAt_zero]

/-- A vector with a single one is the zero vector with that bit inverted. -/
theorem exists_eq_flipBit_zero_of_weight_eq_one {n : Nat} {V : BitVec n} (h : weight V = 1) :
    ∃ i < n, bitAt V i = true ∧ V = flipBit 0#n i := by
  have hmem : true ∈ toBits V := List.count_pos_iff.mp (show 0 < weight V by omega)
  obtain ⟨i, hi, hbit⟩ := List.mem_map.mp hmem
  have hi' := List.mem_range.mp hi
  have hw := weight_flipBit_of_true hi' hbit
  refine ⟨i, hi', hbit, ?_⟩
  rw [← weight_eq_zero_iff.mp (show weight (flipBit V i) = 0 by omega), flipBit_flipBit V hi']

/-- The error pattern that takes a sent vector to a received one is their XOR (R103). -/
theorem channel_eq_iff {C E R : CodeVector} : channel C E = R ↔ E = C ^^^ R := by
  constructor <;> rintro rfl <;> rw [channel, ← BitVec.xor_assoc, BitVec.xor_self, BitVec.zero_xor]

theorem flipBit_xor {n : Nat} (V W : BitVec n) {i : Nat} (hi : i < n) : flipBit (V ^^^ W) i = V ^^^ flipBit W i := by
  rw [flipBit_eq_xor _ hi, flipBit_eq_xor W hi, BitVec.xor_assoc]

/-- DECODE answers `Ok` exactly when the error pattern is itself a codeword, that of the payloads' difference. -/
theorem decodeVector_channel_eq_ok_iff {D D' : InfoVector} {E : CodeVector} :
    decodeVector (channel (encodeVector D) E) = .ok D' ↔ E = encodeVector (D ^^^ D') := by
  rw [decodeVector_eq_ok_iff, channel_eq_iff, encodeVector_xor]

/-- DECODE corrects position `f` exactly when the error pattern is a codeword with that bit inverted. -/
theorem decodeVector_channel_eq_errorFixed_iff {D D' : InfoVector} {E : CodeVector} {f : Fin 13} :
    decodeVector (channel (encodeVector D) E) = .errorFixed D' f ↔ E = flipBit (encodeVector (D ^^^ D')) f.val := by
  rw [decodeVector_eq_errorFixed_iff, channel_eq_iff, encodeVector_xor, flipBit_xor _ _ f.isLt]

theorem overallParity_xor (V W : CodeVector) : overallParity (V ^^^ W) = (overallParity V ^^ overallParity W) :=
  xorAt_xor V W _

/-- R71, R74: a codeword adds nothing to the parity of the error pattern. -/
theorem overallParity_channel (D : InfoVector) (E : CodeVector) :
    overallParity (channel (encodeVector D) E) = decide (weight E % 2 = 1) := by
  rw [channel, overallParity_xor, overallParity_encodeVector, Bool.false_xor, overallParity_eq_decide_weight]

theorem weight_encodeVector_mod_two (D : InfoVector) : weight (encodeVector D) % 2 = 0 := by
  have h := overallParity_encodeVector D
  rw [overallParity_eq_decide_weight, decide_eq_false_iff_not] at h
  omega

/-- Three ones are a codeword of weight four without one of its ones: the inverted bit was set and is now clear. -/
theorem bitAt_flipBit_encodeVector_of_weight_eq_three {A : InfoVector} (hA : A ≠ 0#8) {f : Nat} (hf : f < 13)
    (hw : weight (flipBit (encodeVector A) f) = 3) : bitAt (flipBit (encodeVector A) f) f = false := by
  have hfour := four_le_weight_encodeVector hA
  rw [bitAt_flipBit _ hf, if_pos rfl]
  cases hbit : bitAt (encodeVector A) f with
  | false =>
    have hup := weight_flipBit_of_false hf hbit
    omega
  | true => rfl

@[simp] theorem encodeVector_zero : encodeVector 0#8 = 0#13 := by decide

section Received

variable {D D' : InfoVector} {E : CodeVector} {f : Fin 13}

/-- R77, R87: an `Ok` follows an even number of errors; when there are any, they are four or more and it is wrong. -/
theorem weight_of_decodeVector_channel_eq_ok (h : decodeVector (channel (encodeVector D) E) = .ok D') :
    weight E % 2 = 0 ∧ (weight E ≠ 0 → D' ≠ D ∧ 4 ≤ weight E) := by
  rw [decodeVector_channel_eq_ok_iff] at h
  subst h
  refine ⟨weight_encodeVector_mod_two _, fun hw => ?_⟩
  have hne : D ^^^ D' ≠ 0#8 := fun h0 => hw (by rw [h0, encodeVector_zero, weight_eq_zero_iff])
  exact ⟨fun hD => hne (by rw [hD, BitVec.xor_self]), four_le_weight_encodeVector hne⟩

/-- R87, R88: a correction follows an odd number of errors; after three it is a wrong one, at a fourth position. -/
theorem weight_of_decodeVector_channel_eq_errorFixed
    (h : decodeVector (channel (encodeVector D) E) = .errorFixed D' f) :
    weight E % 2 = 1 ∧ (weight E = 3 → D' ≠ D ∧ bitAt E f.val = false) := by
  have hodd : weight E % 2 = 1 := by
    have hP := overallParity_channel D E
    rw [decodeVector_eq_errorFixed_iff.mp h, overallParity_flipBit _ f.isLt, overallParity_encodeVector] at hP
    simpa using hP.symm
  rw [decodeVector_channel_eq_errorFixed_iff] at h
  subst h
  refine ⟨hodd, fun hw => ?_⟩
  have hne : D ^^^ D' ≠ 0#8 := by
    intro h0
    rw [h0, encodeVector_zero, weight_flipBit_of_false f.isLt (bitAt_zero ..), weight_eq_zero_iff.mpr rfl] at hw
    omega
  exact ⟨fun hD => hne (by rw [hD, BitVec.xor_self]), bitAt_flipBit_encodeVector_of_weight_eq_three hne f.isLt hw⟩

/-- R85: with no error the payload sent is read. -/
theorem decodeVector_channel_of_weight_eq_zero (h : weight E = 0) :
    decodeVector (channel (encodeVector D) E) = .ok D := by
  rw [decodeVector_channel_eq_ok_iff, BitVec.xor_self, encodeVector_zero, weight_eq_zero_iff.mp h]

/-- R85: a single error is corrected. -/
theorem decodeVector_channel_of_weight_eq_one (h : weight E = 1) :
    ∃ f : Fin 13, bitAt E f.val = true ∧ decodeVector (channel (encodeVector D) E) = .errorFixed D f := by
  obtain ⟨i, hi, hbit, hE⟩ := exists_eq_flipBit_zero_of_weight_eq_one h
  refine ⟨⟨i, hi⟩, hbit, ?_⟩
  rw [decodeVector_channel_eq_errorFixed_iff, BitVec.xor_self, encodeVector_zero]
  exact hE

/-- R86: two errors fit neither an `Ok`, which needs none or four, nor a correction, which needs an odd number. -/
theorem decodeVector_channel_of_weight_eq_two (h : weight E = 2) :
    decodeVector (channel (encodeVector D) E) = .multipleErrorsDetected := by
  cases ho : decodeVector (channel (encodeVector D) E) with
  | ok D' =>
    have hfour := (weight_of_decodeVector_channel_eq_ok ho).2 (by omega)
    omega
  | errorFixed D' f =>
    have hodd := (weight_of_decodeVector_channel_eq_errorFixed ho).1
    omega
  | multipleErrorsDetected => rfl

end Received

/-! ### Error patterns by their positions (R86, R87) -/

/-- R103: flips at distinct positions are an XOR mask of that weight. -/
theorem flipAll_eq_xor {n : Nat} (V : BitVec n) {ps : List Nat} (hlt : ∀ p ∈ ps, p < n) (hnd : ps.Nodup) :
    flipAll V ps = V ^^^ flipAll 0#n ps := by
  refine eq_of_bitAt_eq fun i _ => ?_
  rw [bitAt_xor, bitAt_flipAll V hlt hnd, bitAt_flipAll _ hlt hnd, bitAt_zero, Bool.false_xor]

theorem weight_flipAll_of_false {n : Nat} (V : BitVec n) {ps : List Nat} (hlt : ∀ p ∈ ps, p < n) (hnd : ps.Nodup)
    (hV : ∀ p ∈ ps, bitAt V p = false) : weight (flipAll V ps) = weight V + ps.length := by
  induction ps generalizing V with
  | nil => rfl
  | cons p ps ih =>
    obtain ⟨hp, hps⟩ := List.forall_mem_cons.mp hlt
    obtain ⟨hVp, hVps⟩ := List.forall_mem_cons.mp hV
    obtain ⟨hnotMem, hnd'⟩ := List.nodup_cons.mp hnd
    have hV' : ∀ q ∈ ps, bitAt (flipBit V p) q = false := fun q hq => by
      rw [bitAt_flipBit V hp, if_neg (show q ≠ p from fun h => hnotMem (h ▸ hq)), hVps q hq]
    rw [flipAll_cons, ih _ hps hnd' hV', weight_flipBit_of_false hp hVp, List.length_cons]
    omega

/-- R103: the mask of a FLIP list has one 1 for each listed position. -/
theorem weight_flipAll_zero {n : Nat} {ps : List Nat} (hlt : ∀ p ∈ ps, p < n) (hnd : ps.Nodup) :
    weight (flipAll 0#n ps) = ps.length := by
  rw [weight_flipAll_of_false _ hlt hnd fun p _ => bitAt_zero n p, weight_eq_zero_iff.mpr rfl, Nat.zero_add]

/-- R74: the syndrome number of the error pattern with ones at the listed positions. -/
def patternSyndrome (ps : List Nat) : Nat :=
  ps.foldl (fun acc p => acc ^^^ positionSyndrome p) 0

theorem syndromeNumber_flipAll (V : CodeVector) {ps : List Nat} (hlt : ∀ p ∈ ps, p < 13) :
    syndromeNumber (flipAll V ps) = ps.foldl (fun acc p => acc ^^^ positionSyndrome p) (syndromeNumber V) := by
  induction ps generalizing V with
  | nil => rfl
  | cons p ps ih =>
    obtain ⟨hp, hps⟩ := List.forall_mem_cons.mp hlt
    rw [flipAll_cons, ih _ hps, syndromeNumber_flipBit V hp, List.foldl_cons]

section Patterns

variable {ps : List Nat} (D : InfoVector) (hlt : ∀ p ∈ ps, p < 13) (hnd : ps.Nodup)
include hlt

theorem syndromeNumber_flipAll_encodeVector : syndromeNumber (flipAll (encodeVector D) ps) = patternSyndrome ps := by
  rw [syndromeNumber_flipAll _ hlt, syndromeNumber_encodeVector]; rfl

include hnd

theorem flipAll_encodeVector_eq_channel :
    flipAll (encodeVector D) ps = channel (encodeVector D) (flipAll 0#13 ps) :=
  flipAll_eq_xor _ hlt hnd

theorem overallParity_flipAll_encodeVector :
    overallParity (flipAll (encodeVector D) ps) = decide (ps.length % 2 = 1) := by
  rw [flipAll_encodeVector_eq_channel D hlt hnd, overallParity_channel, weight_flipAll_zero hlt hnd]

/-- R87, three errors: a lone checksum, a fourth position or a detection, as the pattern's syndrome number says. -/
theorem decodeVector_of_three_errors (hlen : ps.length = 3) :
    (patternSyndrome ps = 0 ∧ ∃ D', D' ≠ D ∧ decodeVector (flipAll (encodeVector D) ps) = .errorFixed D' 12) ∨
    (1 ≤ patternSyndrome ps ∧ patternSyndrome ps ≤ 12 ∧ ∃ D', ∃ f : Fin 13, D' ≠ D ∧ f ≠ 12 ∧ f.val ∉ ps ∧
      decodeVector (flipAll (encodeVector D) ps) = .errorFixed D' f) ∨
    (13 ≤ patternSyndrome ps ∧ decodeVector (flipAll (encodeVector D) ps) = .multipleErrorsDetected) := by
  have hs := syndromeNumber_flipAll_encodeVector D hlt
  have hP := overallParity_flipAll_encodeVector D hlt hnd
  rw [hlen] at hP
  have hwrong : ∀ {D' f}, decodeVector (flipAll (encodeVector D) ps) = .errorFixed D' f → D' ≠ D ∧ f.val ∉ ps := by
    intro D' f h
    rw [flipAll_encodeVector_eq_channel D hlt hnd] at h
    obtain ⟨hD, hf⟩ := (weight_of_decodeVector_channel_eq_errorFixed h).2 (by rw [weight_flipAll_zero hlt hnd, hlen])
    rw [bitAt_flipAll _ hlt hnd, bitAt_zero] at hf
    exact ⟨hD, by simpa using hf⟩
  rw [← hs]
  by_cases hzero : syndromeNumber (flipAll (encodeVector D) ps) = 0
  · have ho := decodeVector_of_loneChecksum hzero hP
    exact .inl ⟨hzero, _, (hwrong ho).1, ho⟩
  by_cases hlim : 13 ≤ syndromeNumber (flipAll (encodeVector D) ps)
  · exact .inr (.inr ⟨hlim, decodeVector_of_uncorrectable hzero (.inl hlim)⟩)
  · obtain ⟨f, hf, hsf⟩ := exists_position_of_syndromeNumber hzero hlim
    have ho := decodeVector_of_odd hsf hf hP
    obtain ⟨hD, hfourth⟩ := hwrong ho
    exact .inr (.inl ⟨by omega, by omega, _, f, hD, fun h => absurd (congrArg Fin.val h) hf.ne, hfourth, ho⟩)

/-- R87, four errors: another codeword or a detection, as the pattern's syndrome number says. -/
theorem decodeVector_of_four_errors (hlen : ps.length = 4) :
    (patternSyndrome ps = 0 ∧ ∃ D', D' ≠ D ∧ decodeVector (flipAll (encodeVector D) ps) = .ok D') ∨
    (patternSyndrome ps ≠ 0 ∧ decodeVector (flipAll (encodeVector D) ps) = .multipleErrorsDetected) := by
  have hs := syndromeNumber_flipAll_encodeVector D hlt
  have hP := overallParity_flipAll_encodeVector D hlt hnd
  rw [hlen] at hP
  rw [← hs]
  by_cases hzero : syndromeNumber (flipAll (encodeVector D) ps) = 0
  · have ho := decodeVector_of_noMismatch hzero hP
    refine .inl ⟨hzero, _, ?_, ho⟩
    rw [flipAll_encodeVector_eq_channel D hlt hnd] at ho ⊢
    have hw : weight (flipAll 0#13 ps) ≠ 0 := by rw [weight_flipAll_zero hlt hnd, hlen]; decide
    exact ((weight_of_decodeVector_channel_eq_ok ho).2 hw).1
  · exact .inr ⟨hzero, decodeVector_of_uncorrectable hzero (.inr hP)⟩

end Patterns

/-- The listed positions of a choice among all thirteen are a FLIP list of that length. -/
theorem mem_sublistsLen_range {k : Nat} {ps : List Nat} (h : ps ∈ (List.range 13).sublistsLen k) :
    (∀ p ∈ ps, p < 13) ∧ ps.Nodup ∧ ps.length = k := by
  obtain ⟨hsub, hlen⟩ := List.mem_sublistsLen.mp h
  exact ⟨fun p hp => List.mem_range.mp (hsub.subset hp), List.nodup_range.sublist hsub, hlen⟩

/-- A count over choices of positions, cut by whether the first position is chosen, so that it is evaluated block by
block. -/
theorem countP_sublistsLen_cons (q : List Nat → Bool) (k p : Nat) (ps : List Nat) :
    ((p :: ps).sublistsLen (k + 3)).countP q =
      (ps.sublistsLen (k + 3)).countP q + (ps.sublistsLen (k + 2)).countP fun qs => q (p :: qs) := by
  rw [List.sublistsLen_succ_cons, List.countP_append, List.countP_map]
  rfl

/-- R87: the 286 triples by their syndrome number: one that no position has, none, and that of a position. -/
theorem countP_patternSyndrome_triples :
    ((List.range 13).sublistsLen 3).countP (13 ≤ patternSyndrome ·) = 66 ∧
    ((List.range 13).sublistsLen 3).countP (patternSyndrome · = 0) = 17 ∧
    ((List.range 13).sublistsLen 3).countP (fun ps => 1 ≤ patternSyndrome ps ∧ patternSyndrome ps ≤ 12) = 203 := by
  simp only [List.range, List.range.loop, countP_sublistsLen_cons _ 0]
  decide

/-- R87: the 715 quadruples by their syndrome number: none, for the supports of the codewords of weight four, or any. -/
theorem countP_patternSyndrome_quadruples :
    ((List.range 13).sublistsLen 4).countP (patternSyndrome · = 0) = 55 ∧
    ((List.range 13).sublistsLen 4).countP (patternSyndrome · ≠ 0) = 660 := by
  simp only [List.range, List.range.loop, countP_sublistsLen_cons _ 0, countP_sublistsLen_cons _ 1]
  decide

/-! ### Which information bit a correction changes (R45, R46, R88) -/

/-- R48: information bit `k` is read at its own position. -/
theorem bitAt_extract_of_infoPos (C : CodeVector) {k p : Nat} (h : infoPos[k]? = some p) :
    bitAt (extract C) k = bitAt C p := by
  have hk : k < 8 := (List.getElem?_eq_some_iff.mp h).1
  interval_cases k <;> obtain rfl := Option.some.inj h <;> simp [bitAt_extract]

/-- R80, R88: inverting the position of information bit `k` changes exactly that information bit. -/
theorem bitAt_extract_flipBit_ne_iff (C : CodeVector) {k p : Nat} (hp : p < 13) (h : infoPos[k]? = some p) {j : Nat}
    (hj : j < 8) : bitAt (extract (flipBit C p)) j ≠ bitAt (extract C) j ↔ j = k := by
  have hjp : infoPos[j]? = some infoPos[j] := List.getElem?_eq_getElem hj
  have hinj : infoPos[j] = p ↔ j = k := by
    rw [← Option.some_inj, ← hjp, ← h, List.getElem?_inj hj (by decide)]
  rw [bitAt_extract_of_infoPos _ hjp, bitAt_extract_of_infoPos _ hjp, bitAt_flipBit _ hp, ← hinj]
  by_cases heq : infoPos[j] = p <;> simp [heq]

end Sys2Proof.Machine

/-! ### The statements -/

namespace Sys2Proof.Proofs

open Sys2Proof.Machine

/-- Settles O43: a consumer reads back whichever of the three variants was put on the ports. -/
theorem decodeTotalAndExclusive : Obligations.DecodeTotalAndExclusive := fun R s =>
  ⟨_, exec_decode R s, outcomePorts_code R _, outcomePorts_status_ne_three R _, _, readOutcome_outcomePorts R _⟩

/-- Settles O44, one case for each way through the tests of R76. -/
theorem decodeTestsInOrder : Obligations.DecodeTestsInOrder := by
  intro R s
  refine ⟨_, _, _, _, exec_decode R s, outcomePorts_code R _, readOutcome_outcomePorts R _, rfl, rfl, ?_⟩
  by_cases hM' : (mismatchSet R).filter (· != 12) = []
  · obtain hM | hM := mismatchSet_eq_nil_or_singleton hM'
    · exact .inl ⟨hM, by rw [decodeVector, hM]; rfl⟩
    · exact .inr (.inl ⟨hM, by rw [decodeVector, hM, decodeWith_checksumPos]⟩)
  by_cases hf : 12 ≤ flipIndex ((mismatchSet R).filter (· != 12))
  · exact .inr (.inr (.inl ⟨hM', hf, decodeWith_of_limit_le R hM' hf⟩))
  have hlt := Nat.lt_of_not_le hf
  obtain ⟨f, hfval⟩ : ∃ f : Fin 13, f.val = flipIndex ((mismatchSet R).filter (· != 12)) :=
    ⟨⟨_, hlt.trans (by decide)⟩, rfl⟩
  have hdec : decodeVector R = correctAt R f := decodeWith_of_flipIndex R hM' hfval.symm (hfval ▸ hlt)
  rw [← hfval] at hlt ⊢
  by_cases hparity : spanParity (flipBit R f.val) = bitAt (flipBit R f.val) 12
  · exact .inr (.inr (.inr (.inr ⟨hM', hlt, hparity, f, rfl, hdec.trans (correctAt_of_eq hparity)⟩)))
  · exact .inr (.inr (.inr (.inl ⟨hM', hlt, hparity, hdec.trans (correctAt_of_ne hparity)⟩)))

/-- Settles O45: the table of R84, read back from the ports. -/
theorem decodeClosedForm : Obligations.DecodeClosedForm := fun R s =>
  ⟨_, exec_decode R s, outcomePorts_code R _, by rw [readOutcome_outcomePorts, decodeVector_eq]⟩

/-- Settles O46: each outcome but a detection has one input per payload, and the detections are the rest. -/
theorem decodeOutcomeCounts : Obligations.DecodeOutcomeCounts := by
  have hok : ((List.range 8192).countP fun w =>
      decodeVector (BitVec.ofNat 13 w) == .ok (extract (BitVec.ofNat 13 w))) = 256 :=
    countP_range_of_injective (q := fun R => decodeVector R == .ok (extract R)) encodeVector_injective fun R => by
      rw [beq_iff_eq, decodeVector_eq_ok_extract_iff]
  have hfixed : ∀ p : Fin 13, ((List.range 8192).countP fun w => fixesAt p (decodeVector (BitVec.ofNat 13 w))) = 256 :=
    fun p => countP_range_of_injective (q := fun R => fixesAt p (decodeVector R))
      ((flipBit_injective p.isLt).comp encodeVector_injective) fun R => by
        simp only [fixesAt_iff, decodeVector_eq_errorFixed_iff, Function.comp_apply]
  refine ⟨hok, hfixed, ?_⟩
  have htotal := length_eq_sum_countP_outcomes ((List.range 8192).map (BitVec.ofNat 13))
  simp only [List.countP_map, Function.comp_def, hok, hfixed, List.length_map, List.length_range, Finset.sum_const,
    Finset.card_univ, Fintype.card_fin, smul_eq_mul] at htotal
  omega

/-- Settles O47: the rows of R84 as R51 packs them. -/
theorem decodePortsByCase : Obligations.DecodePortsByCase := by
  refine ⟨fun R s => ⟨_, exec_decode R s, outcomePorts_code R _, fun hs hP => ?_, fun hs hP => ?_,
    fun h1 h12 hP => ?_, fun h1 h => ?_⟩, by decide⟩
  · rw [decodeVector_of_noMismatch hs hP, ofNat_toByte]
    exact ⟨rfl, rfl⟩
  · rw [decodeVector_of_loneChecksum hs hP, ofNat_toByte]
    exact ⟨rfl, rfl, rfl⟩
  · obtain ⟨f, hf, hsf⟩ := exists_position_of_syndromeNumber (R := R) (by omega) (by omega)
    rw [decodeVector_of_odd hsf hf hP, ofNat_toByte, hsf, Nat.add_sub_cancel]
    exact ⟨rfl, rfl, Nat.mod_eq_of_lt (f.isLt.trans (by decide))⟩
  · rw [decodeVector_of_uncorrectable (by omega) h]
    rfl

/-- Settles O48: an input whose correction is at position 12 is a codeword with the checksum bit inverted. -/
theorem positionTwelveOnlyForLoneChecksum : Obligations.PositionTwelveOnlyForLoneChecksum := by
  intro R s
  have hlone : mismatchSet R = [12] → decodeVector R = .errorFixed (extract R) 12 := fun h => by
    rw [decodeVector, h, decodeWith_checksumPos]
  refine ⟨_, exec_decode R s, ?_⟩
  simp only [readOutcome_outcomePorts, Option.some_inj]
  refine ⟨⟨?_, fun h => ⟨_, hlone h⟩⟩, hlone⟩
  rintro ⟨D, hD⟩
  rw [decodeVector_eq_errorFixed_iff.mp hD, mismatchSet_flipBit_encodeVector D (Fin.isLt 12)]
  decide

/-- Settles O49: a corrected input is the codeword of the returned payload with the reported bit inverted. -/
theorem reportedPositionIsCorrectedBit : Obligations.ReportedPositionIsCorrectedBit := by
  intro R s
  refine ⟨_, exec_decode R s, fun D f h => ?_⟩
  rw [readOutcome_outcomePorts, Option.some_inj, decodeVector_eq_errorFixed_iff] at h
  have hC : flipBit R f.val = encodeVector D := by rw [h, flipBit_flipBit _ f.isLt]
  have hD : extract (flipBit R f.val) = D := by rw [hC, extract_encodeVector]
  refine ⟨hC, hD, fun hf => ?_, fun k hk j hj => ?_⟩
  · rw [← hD, extract_flipBit_of_notMem R f.isLt fun h => notMem_mismatchPos_of_mem_infoPos _ h hf]
  · rw [← hD, bitAt_extract_flipBit_ne_iff R f.isLt hk hj]

/-- Settles O50, from the round trip and the correction of every single error. -/
theorem singleErrorsCorrected : Obligations.SingleErrorsCorrected := by
  refine fun b s _ => ⟨_, exec_encode _ s, fun t => ⟨_, exec_decode _ t, ?_⟩, fun f t => ⟨_, exec_decode _ t, ?_⟩⟩
  · rw [readOutcome_outcomePorts, decodeVector_encodeVector]
  · rw [readOutcome_outcomePorts, decodeVector_flipBit_encodeVector]

/-- Settles O51: two distinct flips are an error pattern of weight two. -/
theorem doubleErrorsDetected : Obligations.DoubleErrorsDetected := by
  intro D f g s hf hg hne
  have hlt : ∀ p ∈ [f, g], p < 13 := by simp [hf, hg]
  have hnd : [f, g].Nodup := by simp [hne]
  refine ⟨_, exec_decode _ s, ?_⟩
  rw [readOutcome_outcomePorts, flipAll_encodeVector_eq_channel D hlt hnd,
    decodeVector_channel_of_weight_eq_two (weight_flipAll_zero hlt hnd)]

/-- Settles O52, from what each outcome says of the weight of the error pattern. -/
theorem codewordThroughChannel : Obligations.CodewordThroughChannel := by
  refine fun D E s => ⟨_, _, exec_decode _ s, readOutcome_outcomePorts _ _, decodeVector_channel_of_weight_eq_zero,
    decodeVector_channel_of_weight_eq_one, decodeVector_channel_of_weight_eq_two, fun hE => ⟨fun D' h => ?_,
      fun D' f h => (weight_of_decodeVector_channel_eq_errorFixed h).2 hE⟩, fun hE => ⟨fun D' f h => ?_, fun D' h => ?_⟩⟩
  · have heven := (weight_of_decodeVector_channel_eq_ok h).1
    omega
  · have hodd := (weight_of_decodeVector_channel_eq_errorFixed h).1
    omega
  · exact ((weight_of_decodeVector_channel_eq_ok h).2 (by omega)).1

/-- Settles O53: the outcome depends on the pattern's syndrome number alone, by which the patterns are counted. -/
theorem tripleAndQuadrupleErrorCounts : Obligations.TripleAndQuadrupleErrorCounts := by
  intro D
  obtain ⟨hdetected, hlone, hwrong⟩ := countP_patternSyndrome_triples
  obtain ⟨hok, hdetected4⟩ := countP_patternSyndrome_quadruples
  refine ⟨List.length_sublistsLen .., List.length_sublistsLen .., (List.countP_congr fun ps hps => ?_).trans hdetected,
    (List.countP_congr fun ps hps => ?_).trans hlone, (List.countP_congr fun ps hps => ?_).trans hwrong,
    (List.countP_congr fun ps hps => ?_).trans hok, (List.countP_congr fun ps hps => ?_).trans hdetected4⟩ <;>
    obtain ⟨hlt, hnd, hlen⟩ := mem_sublistsLen_range hps
  iterate 3
    · obtain ⟨hs, D', hD, ho⟩ | ⟨h1, h12, D', f, hD, hf, hfourth, ho⟩ | ⟨hs, ho⟩ :=
        decodeVector_of_three_errors D hlt hnd hlen
      · simp [ho, hs, hD]
      · simp [ho, hD, hf, hfourth, h1]
        omega
      · simp [ho]
        omega
  iterate 2
    · obtain ⟨hs, D', hD, ho⟩ | ⟨hs, ho⟩ := decodeVector_of_four_errors D hlt hnd hlen
      · simp [ho, hs, hD]
      · simp [ho, hs]

end Sys2Proof.Proofs
end

section
/-! PROOFS of the statements of spec/60_exceptions.md: every operation completes, and flips are a channel's XOR mask. -/

namespace Sys2Proof.Proofs

open Sys2Proof.Machine

/-- Settles O4: each unit's arm answers the state with its own ports written. -/
theorem everyOperationCompletes : Obligations.EveryOperationCompletes := by
  intro i s
  cases i with
  | encode D => exact ⟨_, exec_encode D s⟩
  | decode R => exact ⟨_, exec_decode R s⟩
  | pargen V => exact ⟨_, exec_pargen V s⟩
  | syndrome R => exact ⟨_, exec_syndrome R s⟩

/-- Settles O55, from the bits of a vector with distinct flips and the induction on the list for the mask's weight. -/
theorem flipIsChannelWithMask : Obligations.FlipIsChannelWithMask := by
  intro C ps hwf
  obtain ⟨hlt, hnd⟩ := flipListWf_iff.mp hwf
  exact ⟨flipAll_eq_xor C hlt hnd, weight_flipAll_zero hlt hnd⟩

end Sys2Proof.Proofs
end

section
/-! PROOFS of the statements about drives, vectors and their text: the vector constructor as the inverse of `toBits`, the
decoder as the inverse of the encoder, then the statements. -/

namespace Sys2Proof.Machine

/-! ### The vector constructor and the text of a vector (R55) -/

/-- A bit sequence is the bits of the vector that has its value. -/
theorem toBits_ofNat_bitsValue (bs : List Bool) : toBits (BitVec.ofNat bs.length (bitsValue bs)) = bs := by
  refine List.ext_getElem (length_toBits _) fun i _ hi => ?_
  have hlt : bs.length - 1 - i < bs.length := by omega
  have hidx : bs.length - 1 - (bs.length - 1 - i) = i := by omega
  simp only [toBits, List.getElem_map, List.getElem_range, bitAt_eq_getLsbD _ hi, BitVec.getLsbD_ofNat, hlt, decide_true,
    Bool.true_and, testBit_bitsValue bs hlt, hidx]

/-- R55: the constructor answers the one vector that has these bits. -/
theorem vectorOfBits_eq_ok_iff {n : Nat} {bs : List Bool} {V : BitVec n} :
    vectorOfBits n bs = .ok V ↔ toBits V = bs := by
  constructor
  · intro h
    unfold vectorOfBits at h
    split at h
    next hlen =>
      subst hlen
      obtain rfl := Except.ok.inj h
      exact toBits_ofNat_bitsValue bs
    next => cases h
  · rintro rfl
    rw [vectorOfBits, if_pos (length_toBits V), bitsValue_toBits, BitVec.ofNat_toNat, BitVec.setWidth_eq]

@[simp] theorem vectorOfBits_toBits {n : Nat} (V : BitVec n) : vectorOfBits n (toBits V) = .ok V :=
  vectorOfBits_eq_ok_iff.mpr rfl

theorem exists_vectorOfBits_of_length {n : Nat} {bs : List Bool} (h : bs.length = n) :
    ∃ V : BitVec n, vectorOfBits n bs = .ok V :=
  ⟨_, if_pos h⟩

theorem vectorOfBits_of_length_ne {n : Nat} {bs : List Bool} (h : bs.length ≠ n) :
    vectorOfBits n bs = .error ⟨n, bs.length⟩ :=
  if_neg h

/-- Each character of the textual form stands for the bit it was written for. -/
theorem mapM_bitOfChar_map (bs : List Bool) :
    (bs.map fun b => if b then '1' else '0').mapM bitOfChar = some bs := by
  induction bs with
  | nil => rfl
  | cons b bs ih => cases b <;> simp [ih, bitOfChar]

/-- R55: the textual form reads back. -/
theorem parseText_render {n : Nat} (V : BitVec n) : parseText n (render V) = .ok V := by
  have hbits : (render V).toList.mapM bitOfChar = some (toBits V) := by
    rw [render, String.toList_ofList, mapM_bitOfChar_map]
  simp [parseText, hbits]

/-! ### The decoder and the encoder are inverse (R53, R54, R92) -/

theorem decode_encode (i : Instr) : decode (encode i) = .ok i := by
  cases i <;> simp [decode, encode, Except.map]

/-- What the decoder does on each port: an operation made from the constructor's vector keeps that vector's bits. -/
theorem exists_toBits_of_map_vectorOfBits {n : Nat} {bs : List Bool} {f : BitVec n → Instr} {i : Instr}
    (h : (vectorOfBits n bs).map f = .ok i) : ∃ V, toBits V = bs ∧ f V = i := by
  cases hV : vectorOfBits n bs with
  | error e => simp [hV, Except.map] at h
  | ok V => exact ⟨V, vectorOfBits_eq_ok_iff.mp hV, by simpa [hV, Except.map] using h⟩

theorem encode_of_decode {d : Drive} {i : Instr} (h : decode d = .ok i) : encode i = d := by
  obtain ⟨port, bits⟩ := d
  cases port <;> obtain ⟨V, rfl, rfl⟩ := exists_toBits_of_map_vectorOfBits h <;> rfl

@[simp] theorem encode_port (i : Instr) : (encode i).port = instrPort i := by
  cases i <;> rfl

/-- R53: the port selects the operation. -/
theorem instrPort_of_decode {d : Drive} {i : Instr} (h : decode d = .ok i) : instrPort i = d.port := by
  rw [← encode_of_decode h, encode_port]

theorem wf_iff_length (d : Drive) : d.wf = true ↔ d.bits.length = portWidth d.port := by
  simp [Drive.wf]

/-- R54: every bit pattern of the port's length is legal. -/
theorem exists_decode_of_wf {d : Drive} (h : d.wf = true) : ∃ i, decode d = .ok i := by
  obtain ⟨port, bits⟩ := d
  cases port <;> obtain ⟨V, hV⟩ := exists_vectorOfBits_of_length ((wf_iff_length _).mp h) <;>
    exact ⟨_, congrArg (Except.map _) hV⟩

/-- R92: a drive of any other length is the length mismatch. -/
theorem decode_of_length_ne {d : Drive} (h : d.bits.length ≠ portWidth d.port) :
    decode d = .error ⟨portWidth d.port, d.bits.length⟩ := by
  obtain ⟨port, bits⟩ := d
  cases port <;> exact congrArg (Except.map _) (vectorOfBits_of_length_ne h)

/-- A drive whose decoding is an operation has its port's length. -/
theorem wf_of_decode {d : Drive} {i : Instr} (h : decode d = .ok i) : d.wf = true := by
  rw [wf_iff_length]
  by_contra hlen
  rw [decode_of_length_ne hlen] at h
  cases h

theorem decode_of_not_wf {d : Drive} (h : d.wf = false) : decode d = .error ⟨portWidth d.port, d.bits.length⟩ :=
  decode_of_length_ne fun hlen => by simp [(wf_iff_length d).mpr hlen] at h

/-- A table word that reads as an operation stands for a drive that decodes to it. -/
theorem decode_tableDrive_of_decodeTableWord {nbits w : Nat} {i : Instr} (h : decodeTableWord nbits w = some i) :
    decode (tableDrive nbits w) = .ok i := by
  rw [decodeTableWord] at h
  cases hd : decode (tableDrive nbits w) with
  | error e => simp [hd, Except.toOption] at h
  | ok j => simpa [hd, Except.toOption] using h

end Sys2Proof.Machine

/-! ### The statements -/

namespace Sys2Proof.Proofs

open Sys2Proof.Machine

/-- Settles O15: on each port the constructor answers the vector whose bits the drive carries. -/
theorem decodeOfEncode : Obligations.DecodeOfEncode :=
  decode_encode

/-- Settles O16: the port and the bits of a drive are those of the operation it decodes to. -/
theorem encodeOfDecode : Obligations.EncodeOfDecode := fun _ _ =>
  encode_of_decode

/-- Settles O17: the length alone decides whether the constructor answers a vector. -/
theorem driveDecodesIffLengthFits : Obligations.DriveDecodesIffLengthFits := by
  refine fun d => ⟨⟨exists_decode_of_wf, fun ⟨_, h⟩ => wf_of_decode h⟩, decode_of_not_wf, fun herr => ?_⟩
  by_contra hwf
  obtain ⟨i, hi⟩ := exists_decode_of_wf (Bool.eq_true_of_not_eq_false hwf)
  rw [herr] at hi
  cases hi

/-- Settles O20, from the value of a bit sequence, whose binary digits are the sequence. -/
theorem vectorConstructorKeepsBits : Obligations.VectorConstructorKeepsBits := by
  refine fun n bs => ⟨fun hlen => ?_, vectorOfBits_of_length_ne⟩
  obtain ⟨V, hV⟩ := exists_vectorOfBits_of_length hlen
  exact ⟨V, hV, vectorOfBits_eq_ok_iff.mp hV⟩

/-- Settles O21: the characters read back as the vector's bits, and these as the vector. -/
theorem renderedTextParsesBack : Obligations.RenderedTextParsesBack := fun _ =>
  parseText_render

/-- Settles O18: each drive is the stimulus of the operation with the spec's bus word. -/
theorem writtenOutDrivesDecode : Obligations.WrittenOutDrivesDecode :=
  ⟨decode_encode (.encode 0x77#8), decode_encode (.decode 0x10EE#13), decode_encode (.pargen 0x01CE#13),
    decode_encode (.syndrome 0x12EE#13)⟩

end Sys2Proof.Proofs
end

section
/-! PROOFS of the statements about the machine: the state an operation leaves, unit by unit, what a step does with its
oldest drive, and the invariants of a step, then the statements. -/

namespace Sys2Proof.Machine

/-! ### Two states with the same ports at a unit -/

theorem State.SamePorts.symm {p : Port} {s t : State} (h : State.SamePorts p s t) : State.SamePorts p t s := by
  cases p <;> exact Eq.symm h

theorem State.SamePorts.trans {p : Port} {s t u : State} (hst : State.SamePorts p s t) (htu : State.SamePorts p t u) :
    State.SamePorts p s u := by
  cases p <;> exact Eq.trans hst htu

/-- The ports of the four units and the pending drives are the whole state. -/
theorem State.eq_of_samePorts {s t : State} (hports : ∀ p, State.SamePorts p s t) (hpending : s.pending = t.pending) :
    s = t := by
  obtain ⟨enc, dec, pg, syn, pending⟩ := s
  obtain rfl : enc = t.enc := hports .encInfo
  obtain rfl : dec = t.dec := hports .decCode
  obtain rfl : pg = t.pg := hports .pgIn
  obtain rfl : syn = t.syn := hports .synCode
  obtain rfl : pending = t.pending := hpending
  rfl

/-! ### The state an operation leaves (R25 to R29, R94) -/

/-- The state in which the operation's unit carries its input and its result. -/
def afterExec (i : Instr) (s : State) : State :=
  match i with
  | .encode D => s.putEnc D (encodeVector D)
  | .decode R => s.putDec (outcomePorts R (decodeVector R))
  | .pargen V => s.putPargen V (parityGenerate V)
  | .syndrome R => s.putSyndrome R (packMismatch (mismatchSet R))

theorem exec_eq (i : Instr) (s : State) : exec i s = .next (afterExec i s) := by
  cases i <;> rfl

@[simp] theorem afterExec_pending (i : Instr) (s : State) : (afterExec i s).pending = s.pending := by
  cases i <;> rfl

theorem afterExec_setPending (i : Instr) (s : State) (ds : List Drive) :
    afterExec i (s.setPending ds) = (afterExec i s).setPending ds := by
  cases i <;> rfl

/-- R13, R38: the operation's own ports do not depend on the state before. -/
theorem samePorts_afterExec_own (i : Instr) (s t : State) :
    State.SamePorts (instrPort i) (afterExec i s) (afterExec i t) := by
  cases i <;> rfl

/-- R29, R40: the ports of every other unit are kept. -/
theorem samePorts_afterExec_of_ne {i : Instr} {p : Port} (h : p ≠ instrPort i) (s : State) :
    State.SamePorts p s (afterExec i s) := by
  cases i with
  | encode D => cases p with
    | encInfo => exact absurd rfl h
    | _ => rfl
  | decode R => cases p with
    | decCode => exact absurd rfl h
    | _ => rfl
  | pargen V => cases p with
    | pgIn => exact absurd rfl h
    | _ => rfl
  | syndrome R => cases p with
    | synCode => exact absurd rfl h
    | _ => rfl

/-- R40: at each unit the later of two operations finds the earlier one's ports, or has none of its own. -/
theorem afterExec_comm {i j : Instr} (h : instrPort i ≠ instrPort j) (s : State) :
    afterExec j (afterExec i s) = afterExec i (afterExec j s) := by
  refine State.eq_of_samePorts (fun p => ?_) (by simp)
  by_cases hi : p = instrPort i
  · subst hi
    exact (samePorts_afterExec_of_ne h _).symm.trans (samePorts_afterExec_own i _ _)
  · by_cases hj : p = instrPort j
    · subst hj
      exact (samePorts_afterExec_own j _ _).trans (samePorts_afterExec_of_ne hi _)
    · exact ((samePorts_afterExec_of_ne hj _).symm.trans (samePorts_afterExec_of_ne hi _).symm).trans
        ((samePorts_afterExec_of_ne hj _).trans (samePorts_afterExec_of_ne hi _))

/-- R36: the same operation again finds its own ports. -/
theorem afterExec_afterExec (i : Instr) (s : State) : afterExec i (afterExec i s) = afterExec i s := by
  refine State.eq_of_samePorts (fun p => ?_) (by simp)
  by_cases hi : p = instrPort i
  · subst hi
    exact samePorts_afterExec_own i _ _
  · exact (samePorts_afterExec_of_ne hi _).symm

/-! ### One step (R13, R92) -/

theorem step_of_nil {s : State} (h : s.pending = []) : step s = .next s := by
  simp only [step, h]

theorem step_of_decode {s : State} {d : Drive} {ds : List Drive} {i : Instr} (hp : s.pending = d :: ds)
    (hd : decode d = .ok i) : step s = exec i (s.setPending ds) := by
  simp only [step, hp, hd]

theorem step_of_decode_error {s : State} {d : Drive} {ds : List Drive} {e : LengthMismatch} (hp : s.pending = d :: ds)
    (hd : decode d = .error e) : step s = .refused (.lengthMismatch d.port e.given) := by
  simp only [step, hp, hd]

/-- What every operation keeps, and the pending drives do not matter to, every step keeps. -/
theorem step_keeps {P : State → Prop} (hpending : ∀ s ds, P s → P (s.setPending ds))
    (hexec : ∀ i s, P s → P (afterExec i s)) {s t : State} (hs : P s) (h : step s = .next t) : P t := by
  obtain ⟨-, rfl⟩ | ⟨d, ds, i, -, -, hi⟩ := step_cases h
  · exact hs
  · rw [exec_eq] at hi
    obtain rfl := Host.Outcome.next.inj hi
    exact hexec i _ (hpending s ds hs)

/-! ### The driven ports carry the functions of their inputs (R30, R104) -/

theorem portsOk_afterExec (i : Instr) {s : State} (h : s.PortsOk) : (afterExec i s).PortsOk := by
  obtain ⟨henc, hdec, hpg, hsyn⟩ := h
  cases i with
  | encode D => exact ⟨by rintro p ⟨⟩; rfl, hdec, hpg, hsyn⟩
  | decode R => exact ⟨henc, by rintro p ⟨⟩; rw [outcomePorts_code], hpg, hsyn⟩
  | pargen V => exact ⟨henc, hdec, by rintro p ⟨⟩; rfl, hsyn⟩
  | syndrome R => exact ⟨henc, hdec, hpg, by rintro p ⟨⟩; rfl⟩

theorem portsOk_of_step {s t : State} (hs : s.PortsOk) (h : step s = .next t) : t.PortsOk :=
  step_keeps (P := State.PortsOk) (fun _ _ h => h) (fun i _ h => portsOk_afterExec i h) hs h

/-- R92, R94: a safe state steps to a safe state, with its oldest drive, if it has one, decoded and gone. -/
theorem exists_step_of_safe {s : State} (hs : s.Safe) : ∃ t, step s = .next t ∧ t.Safe := by
  obtain ⟨hports, hpending⟩ := hs
  cases hp : s.pending with
  | nil => exact ⟨s, step_of_nil hp, hports, hpending⟩
  | cons d ds =>
    have hwf : ∀ e ∈ d :: ds, e.wf = true := hp ▸ hpending
    obtain ⟨hd, hds⟩ := List.forall_mem_cons.mp hwf
    obtain ⟨i, hi⟩ := exists_decode_of_wf hd
    have hstep : step s = .next (afterExec i (s.setPending ds)) := (step_of_decode hp hi).trans (exec_eq i _)
    refine ⟨_, hstep, portsOk_of_step hports hstep, ?_⟩
    rwa [State.PendingOk, afterExec_pending, State.setPending_pending]

/-! ### The driven ports are lawful (R65, R67, R71, R77, R82, R88) -/

/-- The clause of `State.PortsLawful` about the ports of DEC: what each status promises. -/
def DecPorts.Lawful (p : DecPorts) : Prop :=
  p.status ≠ 3#2 ∧
  (p.status = 0#2 → p.code = encodeVector p.info) ∧
  (p.status = 1#2 → p.pos.toNat < 13 ∧ flipBit p.code p.pos.toNat = encodeVector p.info) ∧
  (p.status = 2#2 → ¬ ValidCodeword p.code)

/-- R77, R82, R88: the ports of DEC keep what their status promises, by the three answers of DECODE. -/
theorem outcomePorts_decodeVector_lawful (R : CodeVector) : (outcomePorts R (decodeVector R)).Lawful := by
  refine ⟨outcomePorts_status_ne_three R _, ?_⟩
  cases ho : decodeVector R with
  | ok D => simpa [outcomePorts] using decodeVector_eq_ok_iff.mp ho
  | errorFixed D f =>
    have hpos : (BitVec.ofNat 4 f.val).toNat = f.val := Nat.mod_eq_of_lt (f.isLt.trans (by decide))
    have hflip : flipBit R f.val = encodeVector D := by
      rw [decodeVector_eq_errorFixed_iff.mp ho, flipBit_flipBit _ f.isLt]
    refine ⟨by simp [outcomePorts], fun _ => ?_, by simp [outcomePorts]⟩
    simpa only [outcomePorts, hpos] using And.intro f.isLt hflip
  | multipleErrorsDetected =>
    have hvalid : ¬ ValidCodeword R := by
      rintro ⟨D, rfl⟩
      simp at ho
    simpa [outcomePorts] using hvalid

/-- R67, R69: the word on `syn_mismatch` is 0 exactly on valid codewords. -/
theorem packMismatch_mismatchSet_eq_zero_iff (R : CodeVector) :
    packMismatch (mismatchSet R) = 0#5 ↔ ValidCodeword R := by
  rw [validCodeword_iff_mismatchSet_eq_nil]
  constructor
  · intro h
    rw [← unpackMismatch_packMismatch_mismatchSet, h]
    rfl
  · intro h
    rw [h]
    rfl

/-- R52, R71: bit 4 of `syn_mismatch` is the overall parity. -/
theorem getLsbD_four_packMismatch_mismatchSet (R : CodeVector) :
    (packMismatch (mismatchSet R)).getLsbD 4 = overallParity R := by
  rw [Bool.eq_iff_iff, getLsbD_packMismatch _ (show mismatchPos[4]? = some 12 from rfl), decide_eq_true_iff,
    twelve_mem_mismatchSet]

theorem portsLawful_afterExec (i : Instr) {s : State} (h : s.PortsLawful) : (afterExec i s).PortsLawful := by
  obtain ⟨henc, hdec, hpg, hsyn⟩ := h
  cases i with
  | encode D =>
    refine ⟨?_, hdec, hpg, hsyn⟩
    rintro p ⟨⟩
    exact ⟨rfl, overallParity_encodeVector D, mismatchSet_encodeVector D⟩
  | decode R =>
    refine ⟨henc, ?_, hpg, hsyn⟩
    rintro p ⟨⟩
    exact outcomePorts_decodeVector_lawful R
  | pargen V =>
    refine ⟨henc, hdec, ?_, hsyn⟩
    rintro p ⟨⟩
    exact ⟨parityGenerate_eq_encodeVector_extract V, by simp [parityGenerate_eq_encodeVector_extract]⟩
  | syndrome R =>
    refine ⟨henc, hdec, hpg, ?_⟩
    rintro p ⟨⟩
    exact ⟨packMismatch_mismatchSet_eq_zero_iff R, getLsbD_four_packMismatch_mismatchSet R⟩

/-! ### Runs over a list of drives (R38, R106) -/

/-- A later drive to the port comes after the first. -/
theorem lastDrive_cons (p : Port) (d : Drive) (ds : List Drive) :
    lastDrive p (d :: ds) = (lastDrive p ds).or (if d.port = p then some d else none) := by
  by_cases h : d.port = p
  · simp [lastDrive, h, List.getLast?_cons]
  · simp [lastDrive, h]

theorem port_of_lastDrive {p : Port} {d : Drive} {ds : List Drive} (h : lastDrive p ds = some d) : d.port = p := by
  simpa using (List.mem_filter.mp (List.mem_of_getLast? h)).2

/-- One step of a run over a list of drives: the first is performed, the rest are pending. -/
theorem run_setPending_cons {d : Drive} {i : Instr} (hd : decode d = .ok i) (ds : List Drive) (s : State) :
    Host.Core.run core (d :: ds).length (s.setPending (d :: ds)) =
      Host.Core.run core ds.length ((afterExec i s).setPending ds) := by
  refine core_run_succ _ _ _ ?_
  rw [step_of_decode rfl hd, State.setPending_setPending, exec_eq, afterExec_setPending]

end Sys2Proof.Machine

/-! ### The statements -/

namespace Sys2Proof.Proofs

open Sys2Proof.Machine

/-- Settles O12: the promises hold of what each operation puts on its own unit's ports, and it keeps the others. -/
theorem stepKeepsPortsLawful : Obligations.StepKeepsPortsLawful := fun _ _ =>
  step_keeps (P := State.PortsLawful) (fun _ _ h => h) fun i _ h => portsLawful_afterExec i h

/-- Settles O57: a well-formed drive decodes, and every operation completes. -/
theorem stepKeepsSafe : Obligations.StepKeepsSafe := fun _ =>
  exists_step_of_safe

/-- Settles O5, unit by unit. -/
theorem operationTouchesOnlyItsUnit : Obligations.OperationTouchesOnlyItsUnit := fun i s =>
  ⟨_, exec_eq i s, afterExec_pending i s, fun _ hp => samePorts_afterExec_of_ne hp s⟩

/-- Settles O7: at each unit at most one of the two operations writes. -/
theorem differentUnitsCommute : Obligations.DifferentUnitsCommute := fun i j s h =>
  ⟨_, _, _, exec_eq i s, exec_eq j s, exec_eq j _, by rw [exec_eq, afterExec_comm h]⟩

/-- Settles O11: an operation puts its function's value on its own ports and keeps the others. -/
theorem stepKeepsPortsOk : Obligations.StepKeepsPortsOk := fun _ _ =>
  portsOk_of_step

/-- Settles O13, by induction on the number of steps. -/
theorem safeStateRunsForEver : Obligations.SafeStateRunsForEver := by
  intro n
  induction n with
  | zero => exact fun s _ => ⟨s, rfl⟩
  | succ n ih =>
    intro s hs
    obtain ⟨t, hstep, ht⟩ := exists_step_of_safe hs
    obtain ⟨u, hrun⟩ := ih t ht
    exact ⟨u, (core_run_succ n s t hstep).trans hrun⟩

/-- Settles O14, by induction on the list: a later drive to a unit overwrites what the first one left there. -/
theorem runLeavesLastDriveOfEachUnit : Obligations.RunLeavesLastDriveOfEachUnit := by
  intro ds
  induction ds with
  | nil => exact fun s _ => ⟨s.setPending [], rfl, rfl, fun p => ⟨fun _ => by cases p <;> rfl, fun d h => by cases h⟩⟩
  | cons d ds ih =>
    intro s hwf
    obtain ⟨hd, hds⟩ := List.forall_mem_cons.mp hwf
    obtain ⟨i, hi⟩ := exists_decode_of_wf hd
    obtain ⟨t, hrun, hpending, hlast⟩ := ih (afterExec i s) hds
    refine ⟨t, (run_setPending_cons hi ds s).trans hrun, hpending, fun p => ?_⟩
    obtain ⟨hnone, hsome⟩ := hlast p
    rw [lastDrive_cons]
    cases hl : lastDrive p ds with
    | some e =>
      refine ⟨by simp, fun e' he' => ?_⟩
      obtain rfl : e = e' := by simpa using he'
      obtain ⟨j, u, hj, hu, hports⟩ := hsome e hl
      rw [exec_eq] at hu
      obtain rfl := Host.Outcome.next.inj hu
      obtain rfl : instrPort j = p := (instrPort_of_decode hj).trans (port_of_lastDrive hl)
      exact ⟨j, _, hj, exec_eq j s, (samePorts_afterExec_own j _ _).trans hports⟩
    | none =>
      by_cases hp : d.port = p
      · refine ⟨by simp [hp], fun e he => ?_⟩
        obtain rfl : d = e := by simpa [hp] using he
        exact ⟨i, _, hi, exec_eq i s, hnone hl⟩
      · have hne : p ≠ instrPort i := fun h => hp ((instrPort_of_decode hi).symm.trans h.symm)
        exact ⟨fun _ => (samePorts_afterExec_of_ne hne s).trans (hnone hl), by simp [hp]⟩

/-- Settles O1, by the decoder's answer. -/
theorem stepRunsDecodedInstruction : Obligations.StepRunsDecodedInstruction := fun _ _ _ _ =>
  step_of_decode

/-- Settles O2: the step's branch for an empty list of drives. -/
theorem stepIdlesWithNothingPending : Obligations.StepIdlesWithNothingPending := fun _ =>
  step_of_nil

/-- Settles O3: the decoder answers the length mismatch, whose given length the refusal carries. -/
theorem stepRefusesWrongLengthDrive : Obligations.StepRefusesWrongLengthDrive := fun _ _ _ hp hlen =>
  step_of_decode_error hp (decode_of_length_ne hlen)

/-- Settles O6: the two states after differ at most outside the operation's unit. -/
theorem resultIndependentOfHistory : Obligations.ResultIndependentOfHistory := fun i s s' =>
  ⟨_, _, exec_eq i s, exec_eq i s', samePorts_afterExec_own i s s'⟩

/-- Settles O8: the second time the operation finds its own result on its ports. -/
theorem sameInputAgainSameOutput : Obligations.SameInputAgainSameOutput := fun i s =>
  ⟨_, exec_eq i s, by rw [exec_eq, afterExec_afterExec]⟩

/-- Settles O9, field by field. -/
theorem resetHasNothingDriven : Obligations.ResetHasNothingDriven :=
  ⟨State.reset_enc, State.reset_dec, State.reset_pg, State.reset_syn, State.reset_pending⟩

/-- Settles O10: no unit is driven and nothing is pending, so there is nothing to promise. -/
theorem resetIsSafeAndLawful : Obligations.ResetIsSafeAndLawful := by
  refine ⟨⟨?_, ?_⟩, ?_⟩
  · simp [State.PortsOk]
  · simp [State.PendingOk]
  · simp [State.PortsLawful]

/-- Settles O19: the table word's drive is then the oldest pending one. -/
theorem tableWordIsTheNextStep : Obligations.TableWordIsTheNextStep := fun s _ _ _ h =>
  (step_of_decode rfl (decode_tableDrive_of_decodeTableWord h)).trans (by
    rw [State.withFetchWord, State.setPending_setPending, State.setPending_self])

end Sys2Proof.Proofs
end
